-- ==== Sys2Proof/Word.lean ====
section
/-! DEFINITION. The machine's words (spec/00_scope.md R5): 14-bit addresses and data-address-generator
registers, 16-bit data-memory words, 24-bit program-memory words, the 8-bit PX. -/

namespace Sys2Proof

/-- A 14-bit address, and the contents of an I, M or L register (R5, R10). -/
abbrev Word14 := BitVec 14

/-- A word of data memory, and a value on the DMD bus (R5, R30). -/
abbrev Word16 := BitVec 16

/-- A word of program memory, and a value on the PMD bus (R5, R31). -/
abbrev Word24 := BitVec 24

/-- The contents of PX (R5, R20). -/
abbrev Word8 := BitVec 8

/-- The number of an I, M or L register, 0 to 7 (R10). -/
abbrev RegNo := Fin 8

end Sys2Proof
end

