-- ==== Sys2Proof/Syntax.lean ====
section
/-! DEFINITION. The registers an instruction can name and the ten instructions, one constructor for each row of
spec/opcode_table.json (spec/30_encoding.md R51). Constants and addresses stand resolved, as R54, R55 and R58 leave
them after the assembler and the linker (Sys2Proof/Machine/Assembler.lean holds that resolution). -/

namespace Sys2Proof

/-- The two data address generators (R1, R10). -/
inductive Dag where
  | dag1
  | dag2
  deriving DecidableEq, Repr

/-- The DAG a register number belongs to: 0 to 3 are DAG1's, 4 to 7 are DAG2's (R10). -/
def Dag.of (k : RegNo) : Dag :=
  if k.val < 4 then .dag1 else .dag2

/-- Class DAGREG: the 24 registers of the two DAGs (R24). -/
inductive DagReg where
  /-- I0 to I7, the index registers (R11) -/
  | i (k : RegNo)
  /-- M0 to M7, the modify registers (R12) -/
  | m (k : RegNo)
  /-- L0 to L7, the length registers (R13) -/
  | l (k : RegNo)
  deriving DecidableEq, Repr

/-- The data registers that have a name (R23, R24): AX0 and MX0 are attested, the other fourteen are the family's
(PRESUMED, unsafe: notes/assumptions/2.md). Which of them make up class DREG is an argument of the machine
(`Parameters.dreg` of Sys2Proof/Machine/Run.lean). -/
inductive DataReg where
  | ax0 | ax1 | mx0 | mx1 | ay0 | ay1 | my0 | my1
  | si | se | ar | mr0 | mr1 | mr2 | sr0 | sr1
  deriving DecidableEq, Repr

/-- Class REG: every endpoint of a direct access or a move (R24). -/
inductive Reg where
  | dag (r : DagReg)
  | data (d : DataReg)
  | px
  deriving DecidableEq, Repr

/-- The ten instructions (R51). `i` and `j` of an indirect form are the numbers of its I and its M register; the
L register is the one of `i` and is never named (R15). -/
inductive Instr where
  /-- LDI `dagreg = c;` (R90) -/
  | ldi (r : DagReg) (c : Word14)
  /-- DMD_R `reg = DM(a);` (R91) -/
  | dmdR (r : Reg) (a : Word14)
  /-- DMD_W `DM(a) = reg;` (R92) -/
  | dmdW (r : Reg) (a : Word14)
  /-- DMI_R `dreg = DM(Ii,Mj);` (R93) -/
  | dmiR (d : DataReg) (i j : RegNo)
  /-- DMI_W `DM(Ii,Mj) = dreg;` (R94) -/
  | dmiW (d : DataReg) (i j : RegNo)
  /-- MOV `dst = src;` (R95, R112, R113) -/
  | mov (dst src : Reg)
  /-- ENA_BR `ENA BIT_REV;` (R96) -/
  | enaBr
  /-- DIS_BR `DIS BIT_REV;` (R97) -/
  | disBr
  /-- PMI_R `dreg = PM(Ii,Mj);` (R110) -/
  | pmiR (d : DataReg) (i j : RegNo)
  /-- PMI_W `PM(Ii,Mj) = dreg;` (R111) -/
  | pmiW (d : DataReg) (i j : RegNo)
  deriving DecidableEq, Repr

end Sys2Proof
end

