-- ==== Sys2Proof/Config.lean ====
section
/-! DEFINITION. What the spec leaves open and no statement fixes: the free values, as constants without a body
(nothing in Lean can evaluate them, so a claim holds for every value they could have), and the two parameters of
spec/00_scope.md R6 that no rule reads. The other parameters of R6: the memory map, the reset values and the program's
base are data of Sys2Proof/Machine/State.lean, DREG and ENCODING are arguments of `stepWith` in
Sys2Proof/Machine/Run.lean. -/

namespace Sys2Proof.Config

/-- The new I value of the n-th post-modify of a DAG whose operands break the conditions of R74 (R78; spec/93 U3, U4).
DESIGN CHOICE, safe: notes/assumptions/12.md. -/
opaque freeIndex : Dag → Nat → Word14

/-- What data-memory word `a` holds before anything is written to it (R150; spec/93 U2).
DESIGN CHOICE: notes/assumptions/8.md. -/
opaque dmPowerOn : Word14 → Word16

/-- What program-memory word `a` holds, read as data, before anything is written to it (R150; spec/93 U2).
DESIGN CHOICE: notes/assumptions/8.md. -/
opaque pmPowerOn : Word14 → Word24

/-- BIT_REV_BIT, the position of the bit-reverse bit inside MSTAT (R6, R22). No rule reads it: no statement names
MSTAT (notes/assumptions/17.md). -/
opaque bitRevBit : Nat

/-- PX_LOADED_ON_DUAL_READ (R6, R116). No rule reads it: the two-memory read is no statement of this machine
(notes/assumptions/21.md). -/
opaque pxLoadedOnDualRead : Bool

end Sys2Proof.Config
end

