-- ==== Sys2Proof/WellFormed.lean ====
section
/-! DEFINITION. Which instructions are statements of this machine (spec/30_encoding.md R53; spec/10_state.md R14, R16).
The ranges of R54 and R55 hold by the types of the operands, and the assembler refuses what lies outside them. -/

namespace Sys2Proof

/-- A data-memory pair `(Ii,Mj)`: both registers of one DAG (R14, R53). -/
def dmPairOk (i j : RegNo) : Bool :=
  decide (Dag.of i = Dag.of j)

/-- A program-memory pair `(Ii,Mj)`: both registers of DAG2 (R16, R53). -/
def pmPairOk (i j : RegNo) : Bool :=
  decide (Dag.of i = .dag2) && decide (Dag.of j = .dag2)

/-- The instruction is a statement of this machine (R53); every other operand check is in the types. -/
def Instr.wf : Instr → Bool
  | .ldi _ _ => true
  | .dmdR _ _ => true
  | .dmdW _ _ => true
  | .dmiR _ i j => dmPairOk i j
  | .dmiW _ i j => dmPairOk i j
  | .mov _ _ => true
  | .enaBr => true
  | .disBr => true
  | .pmiR _ i j => pmPairOk i j
  | .pmiW _ i j => pmPairOk i j

/-- The data registers among the endpoints of a direct access or a move. -/
def Reg.dataRegs : Reg → List DataReg
  | .dag _ => []
  | .data d => [d]
  | .px => []

/-- The data registers an instruction names. -/
def Instr.dataRegs : Instr → List DataReg
  | .ldi _ _ => []
  | .dmdR r _ => r.dataRegs
  | .dmdW r _ => r.dataRegs
  | .dmiR d _ _ => [d]
  | .dmiW d _ _ => [d]
  | .mov dst src => dst.dataRegs ++ src.dataRegs
  | .enaBr => []
  | .disBr => []
  | .pmiR d _ _ => [d]
  | .pmiW d _ _ => [d]

/-- Every data register the instruction names is a member of DREG, a parameter (R6, R24, R61). -/
def Instr.admittedBy (dreg : List DataReg) (f : Instr) : Bool :=
  f.dataRegs.all fun d => decide (d ∈ dreg)

end Sys2Proof
end

