-- ==== Sys2Proof/Decode.lean ====
section
/-! DEFINITION. From instruction words to instructions and back, by the candidate encoding of spec/30_encoding.md
section 6 (R63 to R65). The spec gives the encoding as a parameter and this candidate from general knowledge:
PRESUMED, unsafe, notes/assumptions/1.md. -/

namespace Sys2Proof

/-- Why a word is no instruction of this machine. -/
inductive DecodeError where
  /-- no row of R65 matches the word (R61) -/
  | noFormat
  /-- LDI whose register code is outside DAGREG (R61, R65) -/
  | notDagReg
  /-- a move or access that names MSTAT (R22) -/
  | namesMstat
  /-- a move or access that names another register of group 3, outside REG (R24, R61) -/
  | namesOtherControl
  /-- a register code R64 leaves unused -/
  | unusedCode
  /-- a data register that is no member of DREG (R6, R61) -/
  | outsideDreg
  deriving DecidableEq, Repr

/-- The ten formats of R51. -/
inductive Format where
  | ldi | dmdR | dmdW | dmiR | dmiW | mov | enaBr | disBr | pmiR | pmiW
  deriving DecidableEq, Repr

/-- One row of R65: a word `w` is of the row's format when `w &&& mask = pattern`. -/
structure OpcodeRow where
  format : Format
  pattern : Word24
  mask : Word24
  deriving DecidableEq, Repr

/-- The rows of R65. -/
def opcodeRows : List OpcodeRow :=
  [ ⟨.ldi,   0x300000, 0xF00000⟩,
    ⟨.dmdR,  0x800000, 0xF00000⟩,
    ⟨.dmdW,  0x900000, 0xF00000⟩,
    ⟨.dmiR,  0x600000, 0xEFFF00⟩,
    ⟨.dmiW,  0x680000, 0xEFFF00⟩,
    ⟨.pmiR,  0x500000, 0xFFFF00⟩,
    ⟨.pmiW,  0x580000, 0xFFFF00⟩,
    ⟨.mov,   0x0D0000, 0xFFF000⟩,
    ⟨.enaBr, 0x0C00C0, 0xFFFFFF⟩,
    ⟨.disBr, 0x0C0080, 0xFFFFFF⟩ ]

/-- The format of an instruction (R51). -/
def Instr.format : Instr → Format
  | .ldi _ _ => .ldi
  | .dmdR _ _ => .dmdR
  | .dmdW _ _ => .dmdW
  | .dmiR _ _ _ => .dmiR
  | .dmiW _ _ _ => .dmiW
  | .mov _ _ => .mov
  | .enaBr => .enaBr
  | .disBr => .disBr
  | .pmiR _ _ _ => .pmiR
  | .pmiW _ _ _ => .pmiW

/-- The format of a word (R65); the rows do not overlap, so their order says nothing. -/
def formatOf (w : Word24) : Option Format :=
  (opcodeRows.find? fun r => w &&& r.mask == r.pattern).map (·.format)

/-! ### Register codes (R64) -/

/-- The register number of a DAG whose number within the DAG is `n`. -/
def regNoOf : Dag → BitVec 2 → RegNo
  | .dag1, n => ⟨n.toNat, by have := n.isLt; omega⟩
  | .dag2, n => ⟨n.toNat + 4, by have := n.isLt; omega⟩

/-- The two-bit number of a register within its DAG. -/
def numberInDag (k : RegNo) : BitVec 2 :=
  BitVec.ofNat 2 k.val

/-- Group 0: the data register with number `n`. -/
def dataRegAt (n : BitVec 4) : DataReg :=
  match n.toNat with
  | 0 => .ax0 | 1 => .ax1 | 2 => .mx0 | 3 => .mx1
  | 4 => .ay0 | 5 => .ay1 | 6 => .my0 | 7 => .my1
  | 8 => .si  | 9 => .se  | 10 => .ar | 11 => .mr0
  | 12 => .mr1 | 13 => .mr2 | 14 => .sr0 | _ => .sr1

/-- The number of a data register in group 0. -/
def DataReg.code : DataReg → BitVec 4
  | .ax0 => 0 | .ax1 => 1 | .mx0 => 2 | .mx1 => 3
  | .ay0 => 4 | .ay1 => 5 | .my0 => 6 | .my1 => 7
  | .si => 8  | .se => 9  | .ar => 10 | .mr0 => 11
  | .mr1 => 12 | .mr2 => 13 | .sr0 => 14 | .sr1 => 15

/-- Groups 1 and 2: the register of a DAG with number `n`: 0 to 3 an I, 4 to 7 an M, 8 to 11 an L. -/
def dagRegAt (g : Dag) (n : BitVec 4) : Except DecodeError DagReg :=
  let k := regNoOf g (n.extractLsb' 0 2)
  match (n.extractLsb' 2 2).toNat with
  | 0 => .ok (.i k)
  | 1 => .ok (.m k)
  | 2 => .ok (.l k)
  | _ => .error .unusedCode

/-- Group 3: PX is the only member of REG. -/
def controlRegAt (n : BitVec 4) : Except DecodeError Reg :=
  match n.toNat with
  | 1 => .error .namesMstat
  | 7 => .ok .px
  | 14 => .error .unusedCode
  | 15 => .error .unusedCode
  | _ => .error .namesOtherControl

/-- The register with group `g` and number `n` (R64). -/
def regAt (g : BitVec 2) (n : BitVec 4) : Except DecodeError Reg :=
  match g.toNat with
  | 0 => .ok (.data (dataRegAt n))
  | 1 => (dagRegAt .dag1 n).map .dag
  | 2 => (dagRegAt .dag2 n).map .dag
  | _ => controlRegAt n

/-- The destination of LDI: groups 1 and 2 only (R65). -/
def ldiRegAt (g : BitVec 2) (n : BitVec 4) : Except DecodeError DagReg :=
  match g.toNat with
  | 1 => dagRegAt .dag1 n
  | 2 => dagRegAt .dag2 n
  | _ => .error .notDagReg

/-- The group of the registers of a DAG (R64). -/
def Dag.group : Dag → BitVec 2
  | .dag1 => 1
  | .dag2 => 2

/-- Group and number of a DAG register (R64). -/
def DagReg.code : DagReg → BitVec 2 × BitVec 4
  | .i k => ((Dag.of k).group, 0#2 ++ numberInDag k)
  | .m k => ((Dag.of k).group, 1#2 ++ numberInDag k)
  | .l k => ((Dag.of k).group, 2#2 ++ numberInDag k)

/-- Group and number of a register of REG (R64). -/
def Reg.code : Reg → BitVec 2 × BitVec 4
  | .dag r => r.code
  | .data d => (0, d.code)
  | .px => (3, 7)

/-! ### Decoding (R63, R65) -/

/-- Bit 20 of an indirect data-memory access selects the DAG. -/
def dagAt (b : BitVec 1) : Dag :=
  if b = 0 then .dag1 else .dag2

/-- The instruction of a word whose format is known (R63). -/
def decodeFields (f : Format) (w : Word24) : Except DecodeError Instr :=
  let group := w.extractLsb' 18 2
  let number := w.extractLsb' 0 4
  let constant := w.extractLsb' 4 14
  let data := dataRegAt (w.extractLsb' 4 4)
  let g := dagAt (w.extractLsb' 20 1)
  let ii := w.extractLsb' 2 2
  let mm := w.extractLsb' 0 2
  match f with
  | .ldi => (ldiRegAt group number).map (.ldi · constant)
  | .dmdR => (regAt group number).map (.dmdR · constant)
  | .dmdW => (regAt group number).map (.dmdW · constant)
  | .dmiR => .ok (.dmiR data (regNoOf g ii) (regNoOf g mm))
  | .dmiW => .ok (.dmiW data (regNoOf g ii) (regNoOf g mm))
  | .mov =>
    match regAt (w.extractLsb' 10 2) (w.extractLsb' 4 4), regAt (w.extractLsb' 8 2) number with
    | .ok dst, .ok src => .ok (.mov dst src)
    | .error e, _ => .error e
    | .ok _, .error e => .error e
  | .enaBr => .ok .enaBr
  | .disBr => .ok .disBr
  | .pmiR => .ok (.pmiR data (regNoOf .dag2 ii) (regNoOf .dag2 mm))
  | .pmiW => .ok (.pmiW data (regNoOf .dag2 ii) (regNoOf .dag2 mm))

/-- The instruction of a 24-bit program-memory word, or the name of what is wrong with it (R61, R65). -/
def decode (w : Word24) : Except DecodeError Instr :=
  match formatOf w with
  | none => .error .noFormat
  | some f => decodeFields f w

/-- The low `nbits` bits of `w` as one instruction word, every bit above them zero. -/
def tableWord (nbits w : Nat) : Word24 :=
  BitVec.ofNat 24 (w % 2 ^ nbits)

/-- What the decoder reads from the instruction whose bits are `w`; the machine stores an instruction as one
24-bit word, so there is no order of parts to lay out (R36). -/
def decodeTableWord (nbits w : Nat) : Option Instr :=
  match decode (tableWord nbits w) with
  | .ok i => some i
  | .error _ => none

/-! ### Encoding (R63) -/

/-- Bit 20 of an indirect data-memory access. -/
def Dag.selectBit : Dag → BitVec 1
  | .dag1 => 0
  | .dag2 => 1

/-- The operand nibbles shared by the indirect forms: data register, I number, M number. -/
def indirectFields (d : DataReg) (i j : RegNo) : BitVec 8 :=
  d.code ++ numberInDag i ++ numberInDag j

/-- The operand fields shared by LDI and the direct forms: group, constant or address, number. -/
def directFields (code : BitVec 2 × BitVec 4) (c : Word14) : BitVec 20 :=
  code.1 ++ c ++ code.2

/-- The operand fields of MOV: the two groups, then the two numbers. -/
def moveFields (dst src : BitVec 2 × BitVec 4) : BitVec 12 :=
  dst.1 ++ src.1 ++ dst.2 ++ src.2

/-- The word of a well-formed instruction (R63, R64). An ill-formed pair has no word of its own: the DAG of its I
register is written. -/
def encode : Instr → Word24
  | .ldi r c => 0x3#4 ++ directFields r.code c
  | .dmdR r a => 0x8#4 ++ directFields r.code a
  | .dmdW r a => 0x9#4 ++ directFields r.code a
  | .dmiR d i j => 3#3 ++ (Dag.of i).selectBit ++ 0x000#12 ++ indirectFields d i j
  | .dmiW d i j => 3#3 ++ (Dag.of i).selectBit ++ 0x800#12 ++ indirectFields d i j
  | .mov dst src => 0x0D0#12 ++ moveFields dst.code src.code
  | .enaBr => 0x0C00C0
  | .disBr => 0x0C0080
  | .pmiR d i j => 0x5000#16 ++ indirectFields d i j
  | .pmiW d i j => 0x5800#16 ++ indirectFields d i j

/-! ### The encoding as a parameter (R6, D1) -/

/-- ENCODING: the map from statements to 24-bit words, with its decoder. The source gives none, so the machine takes
it as an argument (`Parameters.encoding` of Sys2Proof/Machine/Run.lean). -/
structure Encoding where
  encode : Instr → Word24
  decode : Word24 → Except DecodeError Instr

/-- The candidate of R63 to R65. PRESUMED, unsafe: notes/assumptions/1.md. -/
def Encoding.candidate : Encoding :=
  { encode := Sys2Proof.encode, decode := Sys2Proof.decode }

end Sys2Proof
end

