-- ==== Sys2Proof/Machine/State.lean ====
section
/-! DEFINITION. The machine's state as plain data, the reasons a step can stop, and the state after reset
(spec/10_state.md, spec/20_memory.md, spec/70_reset_and_hazards.md). -/

namespace Sys2Proof.Machine

/-- A memory of `w`-bit words: (address, word) pairs, addresses strictly rising, only words that hold a written or
loaded value. The spec's memories have no bytes (R36), so a cell is a whole word (notes/assumptions/10.md). -/
abbrev Memory (w : Nat) := List (Nat × BitVec w)

/-- A range of addresses, both ends included. -/
structure Region where
  first : Nat
  last : Nat
  deriving DecidableEq, Repr

/-- DM_MAPPED and PM_MAPPED (R6, R33): the addresses that hold plain words. A parameter of the platform, held as data
so that a claim about every state is a claim about every map; no statement changes it (notes/assumptions/9.md). -/
structure MemoryMap where
  dm : List Region
  pm : List Region
  deriving DecidableEq, Repr

/-- The data registers (R23). The two of 8 bits read sign-extended (notes/assumptions/2.md). -/
structure DataRegs where
  ax0 : Word16
  ax1 : Word16
  mx0 : Word16
  mx1 : Word16
  ay0 : Word16
  ay1 : Word16
  my0 : Word16
  my1 : Word16
  si : Word16
  se : Word8
  ar : Word16
  mr0 : Word16
  mr1 : Word16
  mr2 : Word8
  sr0 : Word16
  sr1 : Word16
  deriving DecidableEq, Repr

/-- Everything the spec gives the machine (`10_state.md` section 1), the platform's memory map, and the model's own
counters for free values. -/
structure State where
  /-- I0 to I7 (R11) -/
  i : Vector Word14 8
  /-- M0 to M7 (R12) -/
  m : Vector Word14 8
  /-- L0 to L7 (R13) -/
  l : Vector Word14 8
  /-- PX (R20) -/
  px : Word8
  /-- BIT_REV, the bit-reverse mode bit of MSTAT (R22) -/
  bitRev : Bool
  /-- the data registers (R23) -/
  regs : DataRegs
  /-- the program counter (R25) -/
  pc : Word14
  /-- data memory (R30) -/
  dm : Memory 16
  /-- program memory (R31) -/
  pm : Memory 24
  /-- the program-memory addresses statements have written during the run (R44), strictly rising -/
  pmWritten : List Nat
  /-- which addresses hold memory (R33); no statement changes it -/
  map : MemoryMap
  /-- the model's own: how many free values DAG1 has drawn (notes/assumptions/12.md) -/
  dag1Draws : Nat
  /-- the model's own: how many free values DAG2 has drawn (notes/assumptions/12.md) -/
  dag2Draws : Nat
  deriving DecidableEq, Repr

/-- Why a run is stuck (R33, R133). Every one is safe: the model stops where the hardware might go on. -/
inductive Fault where
  /-- an access to data-memory address `a`, where the map has no memory (R33); raised by DMD_R, DMD_W, DMI_R and
  DMI_W; safe -/
  | dmUnmapped (a : Word14)
  /-- a data access to program-memory address `a`, where the map has no memory (R33); raised by PMI_R and PMI_W;
  safe -/
  | pmUnmapped (a : Word14)
  /-- the fetch at `a`, where the map has no program memory (R33); raised by `step`; safe -/
  | fetchUnmapped (a : Word14)
  /-- the fetch at `a`, where nothing was ever placed (spec/93 U2); raised by `step`; safe
  (notes/assumptions/11.md) -/
  | fetchUnwritten (a : Word14)
  /-- a statement that would complete with an I register the spec leaves unspecified (R78, R133; spec/93 U3, U4);
  raised by `stepWith` where its parameters treat that as a fault, never by `step`; safe (notes/assumptions/12.md) -/
  | unspecifiedModify
  deriving DecidableEq, Repr

/-- Why a statement is refused (R133). Every one is safe: the model gives no next state. -/
inductive Refusal where
  /-- an instruction without a meaning, by its mnemonic in the opcode table; raised by `exec` only -/
  | notModelled (mnemonic : String)
  /-- the fetched word is no instruction, by the name of what is wrong (R61, R22); raised by `step` -/
  | undecodable (e : DecodeError)
  /-- the pair's registers belong to different DAGs (R14, R53); raised by DMI_R, DMI_W, PMI_R, PMI_W -/
  | crossDagPair
  /-- a program-memory access through DAG1 (R16, R53); raised by PMI_R and PMI_W -/
  | pmNeedsDag2
  /-- `pc + 1` would be 16384 (R25); raised by every instruction -/
  | pcPastTop
  /-- the fetch at `a`, a word a statement wrote during the run (R44); raised by `step` -/
  | writtenWordFetched (a : Word14)
  deriving DecidableEq, Repr

/-- What a step, or a part of one, answers. -/
abbrev Result (α : Type) := Host.Outcome α Fault Refusal

/-- The value of everything the spec leaves open at reset (R26, R27, R150, R151): random registers, RESET_PX,
RESET_BIT_REV, PROGRAM_BASE, the platform's map, and where the model's own counters start. -/
structure ResetValues where
  i : Vector Word14 8
  m : Vector Word14 8
  l : Vector Word14 8
  px : Word8
  bitRev : Bool
  regs : DataRegs
  programBase : Word14
  map : MemoryMap
  dag1Draws : Nat
  dag2Draws : Nat
  deriving DecidableEq, Repr

/-- The machine after a reset that leaves the values `r` (R150, R151): no memory word is listed and no statement has
written program memory. A claim about every reset is a claim about every `r` (notes/assumptions/7.md). -/
def State.resetWith (r : ResetValues) : State :=
  { i := r.i, m := r.m, l := r.l, px := r.px, bitRev := r.bitRev, regs := r.regs, pc := r.programBase,
    dm := [], pm := [], pmWritten := [], map := r.map,
    dag1Draws := r.dag1Draws, dag2Draws := r.dag2Draws }

/-- Every data register zero. DESIGN CHOICE, unsafe: notes/assumptions/6.md. -/
def DataRegs.zero : DataRegs :=
  { ax0 := 0, ax1 := 0, mx0 := 0, mx1 := 0, ay0 := 0, ay1 := 0, my0 := 0, my1 := 0,
    si := 0, se := 0, ar := 0, mr0 := 0, mr1 := 0, mr2 := 0, sr0 := 0, sr1 := 0 }

/-- The whole 14-bit range of both spaces. DESIGN CHOICE: notes/assumptions/9.md. -/
def MemoryMap.whole : MemoryMap :=
  { dm := [⟨0, 0x3FFF⟩], pm := [⟨0, 0x3FFF⟩] }

/-- The one value the model names for everything open at reset. I, M, L: DESIGN CHOICE zero, unsafe
(notes/assumptions/3.md); PX: DESIGN CHOICE zero, unsafe (notes/assumptions/4.md); BIT_REV = 0 and
PROGRAM_BASE = 0x0000: PRESUMED, the family's, unsafe (notes/assumptions/5.md). -/
def ResetValues.named : ResetValues :=
  { i := Vector.replicate 8 0, m := Vector.replicate 8 0, l := Vector.replicate 8 0,
    px := 0, bitRev := false, regs := DataRegs.zero, programBase := 0x0000,
    map := MemoryMap.whole, dag1Draws := 0, dag2Draws := 0 }

/-- The machine right after reset (R150). -/
def State.reset : State :=
  State.resetWith ResetValues.named

end Sys2Proof.Machine
end

