-- ==== Sys2Proof/Machine/Ops.lean ====
section
/-! DEFINITION. The named operations over memory and registers that every meaning is built from. The machine takes no
exception and returns from none (spec/60_exceptions.md R130, R133, R134: `raise` is never used), so there is no
operation for either; a statement ends in `finish`, or the run stops short by a fault or a refusal (R133). -/

namespace Sys2Proof.Machine

/-! ### Composing results -/

/-- Go on with `k` after `r`; a stop ends the statement. -/
def thenDo {α β : Type} (r : Result α) (k : α → Result β) : Result β :=
  match r with
  | .next a => k a
  | .fault f => .fault f
  | .refused e => .refused e

/-! ### Memory: sparse, one entry per word that holds a value -/

/-- The value memory holds at `a`, none where nothing was ever placed. -/
def Memory.lookup {w : Nat} : Memory w → Nat → Option (BitVec w)
  | [], _ => none
  | (b, v) :: rest, a => if a = b then some v else Memory.lookup rest a

/-- Make `v` the value at `a`; no other word changes (R34). Keeps the canonical form. -/
def Memory.store {w : Nat} : Memory w → Nat → BitVec w → Memory w
  | [], a, v => [(a, v)]
  | (b, u) :: rest, a, v =>
    if a < b then (a, v) :: (b, u) :: rest
    else if a = b then (a, v) :: rest
    else (b, u) :: Memory.store rest a v

/-- The canonical form: addresses strictly rising and inside the 14-bit space (R30, R31). -/
abbrev Memory.wf {w : Nat} (m : Memory w) : Prop :=
  m.Pairwise (fun c d => c.1 < d.1) ∧ ∀ c ∈ m, c.1 < 2 ^ 14

/-- Add an address to a strictly rising list of addresses. -/
def recordAddress : List Nat → Nat → List Nat
  | [], a => [a]
  | b :: rest, a =>
    if a < b then a :: b :: rest
    else if a = b then b :: rest
    else b :: recordAddress rest a

/-- The canonical form of the record of written addresses. -/
abbrev addressesWf (as : List Nat) : Prop :=
  as.Pairwise (· < ·) ∧ ∀ a ∈ as, a < 2 ^ 14

/-! ### The memory map (R33) -/

/-- The address lies in the range. -/
def Region.holds (r : Region) (a : Nat) : Bool :=
  decide (r.first ≤ a) && decide (a ≤ r.last)

/-- DM_MAPPED(a) (R33). -/
def MemoryMap.dmMapped (p : MemoryMap) (a : Word14) : Bool :=
  p.dm.any (·.holds a.toNat)

/-- PM_MAPPED(a) (R33). -/
def MemoryMap.pmMapped (p : MemoryMap) (a : Word14) : Bool :=
  p.pm.any (·.holds a.toNat)

/-! ### The words a state's memories hold -/

/-- The value of DM word `a`: as last written (R34), else its free power-on value (notes/assumptions/8.md). -/
def State.dmWord (s : State) (a : Word14) : Word16 :=
  (s.dm.lookup a.toNat).getD (Config.dmPowerOn a)

/-- The value of PM word `a` read as data: as last written (R34), else its free power-on value
(notes/assumptions/8.md). -/
def State.pmWord (s : State) (a : Word14) : Word24 :=
  (s.pm.lookup a.toNat).getD (Config.pmPowerOn a)

/-! ### Updates of the state -/

/-- `I[k] <- v` (R8). -/
def State.setI (s : State) (k : RegNo) (v : Word14) : State :=
  { s with i := s.i.set k.val v k.isLt }

/-- `M[k] <- v` (R8). -/
def State.setM (s : State) (k : RegNo) (v : Word14) : State :=
  { s with m := s.m.set k.val v k.isLt }

/-- `L[k] <- v` (R8). -/
def State.setL (s : State) (k : RegNo) (v : Word14) : State :=
  { s with l := s.l.set k.val v k.isLt }

/-- `PX <- v` (R8). -/
def State.setPx (s : State) (v : Word8) : State :=
  { s with px := v }

/-- The data registers become `r`. -/
def State.setRegs (s : State) (r : DataRegs) : State :=
  { s with regs := r }

/-- `pc <- v` (R8). -/
def State.setPc (s : State) (v : Word14) : State :=
  { s with pc := v }

/-- Make `v` the value of DM word `a` (R34). -/
def State.putDm (s : State) (a : Word14) (v : Word16) : State :=
  { s with dm := s.dm.store a.toNat v }

/-- Make `v` the value of PM word `a` (R34) and record that a statement wrote it (R44). -/
def State.putPm (s : State) (a : Word14) (v : Word24) : State :=
  { s with pm := s.pm.store a.toNat v, pmWritten := recordAddress s.pmWritten a.toNat }

/-- How many free values a DAG has drawn; the model's own (notes/assumptions/12.md). -/
def State.draws (s : State) : Dag → Nat
  | .dag1 => s.dag1Draws
  | .dag2 => s.dag2Draws

/-- Count one more free value of a DAG; the model's own (notes/assumptions/12.md). -/
def State.countDraw (s : State) : Dag → State
  | .dag1 => { s with dag1Draws := s.dag1Draws + 1 }
  | .dag2 => { s with dag2Draws := s.dag2Draws + 1 }

/-! ### Memory accesses of a statement (R33, R34, R35) -/

/-- `MemRead(DM, a, 16)`; no step where no memory is (R33). -/
def readDm (a : Word14) (s : State) : Result Word16 :=
  if s.map.dmMapped a then .next (s.dmWord a) else .fault (.dmUnmapped a)

/-- `MemWrite(DM, a, 16, v)`; no step where no memory is (R33). -/
def writeDm (a : Word14) (v : Word16) (s : State) : Result State :=
  if s.map.dmMapped a then .next (s.putDm a v) else .fault (.dmUnmapped a)

/-- `MemRead(PM, a, 24)` of a data word; no step where no memory is (R33). -/
def readPm (a : Word14) (s : State) : Result Word24 :=
  if s.map.pmMapped a then .next (s.pmWord a) else .fault (.pmUnmapped a)

/-- `MemWrite(PM, a, 24, v)`; no step where no memory is (R33). -/
def writePm (a : Word14) (v : Word24) (s : State) : Result State :=
  if s.map.pmMapped a then .next (s.putPm a v) else .fault (.pmUnmapped a)

/-! ### The end of every statement -/

/-- The last address of the 14-bit space. -/
def topAddress : Word14 := 0x3FFF

/-- `pc <- pc + 1`, refused where that would be 16384 (R25). -/
def finish (s : State) : Result State :=
  if s.pc = topAddress then .refused .pcPastTop else .next (s.setPc (s.pc + 1))

/-! ### Fetching (R25, R44, R115) -/

/-- The instruction word at `pc`: refused where a statement wrote it during the run (R44), stuck where there is no
memory (R33) or where nothing was ever placed (notes/assumptions/11.md). It reads nothing else and changes nothing:
PX in particular (R115). -/
def fetch (s : State) : Result Word24 :=
  if s.pc.toNat ∈ s.pmWritten then .refused (.writtenWordFetched s.pc)
  else if s.map.pmMapped s.pc then
    match s.pm.lookup s.pc.toNat with
    | some w => .next w
    | none => .fault (.fetchUnwritten s.pc)
  else .fault (.fetchUnmapped s.pc)

/-! ### Placing words from outside the machine -/

/-- The state with PM address `a` mapped. -/
def State.mapPm (s : State) (a : Word14) : State :=
  if s.map.pmMapped a then s
  else { s with map := { s.map with pm := ⟨a.toNat, a.toNat⟩ :: s.map.pm } }

/-- Put the word `v` at PM address `a` from outside: a load, no statement's write, so the word may be fetched
(notes/assumptions/24.md). -/
def State.placePm (s : State) (a : Word14) (v : Word24) : State :=
  { s with
    pm := s.pm.store a.toNat v,
    pmWritten := s.pmWritten.filter (fun b => decide (b ≠ a.toNat)) }

end Sys2Proof.Machine
end

