-- ==== Sys2Proof/Machine/Operands.lean ====
section
/-! DEFINITION. The operand forms: registers on the DMD bus (spec/10_state.md R18, R19) and the addresses the data
address generators make (spec/40_dag_address_generation.md R70 to R82). -/

namespace Sys2Proof.Machine

/-! ### Widening (R7) -/

/-- `zext_16` of a 14-bit pattern. -/
def zext16 (v : Word14) : Word16 := v.setWidth 16

/-- `sext_16`: bit 13 copied into bits 15 and 14. -/
def sext16 (v : Word14) : Word16 := v.signExtend 16

/-- `zext_16` of PX: bits 15 to 8 are zero (R18). -/
def zextPx (v : Word8) : Word16 := v.setWidth 16

/-- An 8-bit data register as the bus sees it (R23, notes/assumptions/2.md). -/
def sextNarrow (v : Word8) : Word16 := v.signExtend 16

/-- The low 14 bits of a bus value; bits 15 and 14 are ignored (R19). -/
def low14 (v : Word16) : Word14 := v.extractLsb' 0 14

/-- The low 8 bits of a bus value (R19, R20). -/
def low8 (v : Word16) : Word8 := v.extractLsb' 0 8

/-! ### The two parts of a program-memory word (R35, R117, R118) -/

/-- Bits 23 to 8, the part the DMD bus carries. -/
def pmUpper (w : Word24) : Word16 := w.extractLsb' 8 16

/-- Bits 7 to 0, the part PX carries. -/
def pmLower (w : Word24) : Word8 := w.extractLsb' 0 8

/-- `v ∥ PX`: the register in bits 23 to 8, PX in bits 7 to 0 (R111). -/
def pmJoin (v : Word16) (px : Word8) : Word24 := v ++ px

/-! ### Data registers (R23) -/

/-- What a data register drives onto the bus. -/
def DataRegs.read (r : DataRegs) : DataReg → Word16
  | .ax0 => r.ax0
  | .ax1 => r.ax1
  | .mx0 => r.mx0
  | .mx1 => r.mx1
  | .ay0 => r.ay0
  | .ay1 => r.ay1
  | .my0 => r.my0
  | .my1 => r.my1
  | .si => r.si
  | .se => sextNarrow r.se
  | .ar => r.ar
  | .mr0 => r.mr0
  | .mr1 => r.mr1
  | .mr2 => sextNarrow r.mr2
  | .sr0 => r.sr0
  | .sr1 => r.sr1

/-- A data register loaded from the bus. -/
def DataRegs.write (r : DataRegs) (d : DataReg) (v : Word16) : DataRegs :=
  match d with
  | .ax0 => { r with ax0 := v }
  | .ax1 => { r with ax1 := v }
  | .mx0 => { r with mx0 := v }
  | .mx1 => { r with mx1 := v }
  | .ay0 => { r with ay0 := v }
  | .ay1 => { r with ay1 := v }
  | .my0 => { r with my0 := v }
  | .my1 => { r with my1 := v }
  | .si => { r with si := v }
  | .se => { r with se := low8 v }
  | .ar => { r with ar := v }
  | .mr0 => { r with mr0 := v }
  | .mr1 => { r with mr1 := v }
  | .mr2 => { r with mr2 := low8 v }
  | .sr0 => { r with sr0 := v }
  | .sr1 => { r with sr1 := v }

/-- The data registers of 8 bits (R23, notes/assumptions/2.md). -/
def narrow : DataReg → Bool
  | .se => true
  | .mr2 => true
  | _ => false

/-- `x[d]` for a data register. -/
def State.data (s : State) (d : DataReg) : Word16 :=
  s.regs.read d

/-- `x[d] <- v` for a data register. -/
def State.setData (s : State) (d : DataReg) (v : Word16) : State :=
  s.setRegs (s.regs.write d v)

/-! ### The DMD bus (R18, R19) -/

/-- `x[r]` for a DAG register: its 14-bit pattern. -/
def State.dagReg (s : State) : DagReg → Word14
  | .i k => s.i[k]
  | .m k => s.m[k]
  | .l k => s.l[k]

/-- `x[r] <- v` for a DAG register. -/
def State.setDagReg (s : State) (r : DagReg) (v : Word14) : State :=
  match r with
  | .i k => s.setI k v
  | .m k => s.setM k v
  | .l k => s.setL k v

/-- `BusRead16(r)` (R18). -/
def State.busRead (s : State) : Reg → Word16
  | .dag (.i k) => zext16 s.i[k]
  | .dag (.m k) => sext16 s.m[k]
  | .dag (.l k) => zext16 s.l[k]
  | .data d => s.data d
  | .px => zextPx s.px

/-- `BusWrite16(r, v)` (R19). -/
def State.busWrite (s : State) (r : Reg) (v : Word16) : State :=
  match r with
  | .dag r => s.setDagReg r (low14 v)
  | .data d => s.setData d v
  | .px => s.setPx (low8 v)

/-! ### The output address (R71, R79) -/

/-- `bitrev14`: line k carries bit 13 - k (R79). -/
def bitrev14 (a : Word14) : Word14 := a.reverse

/-- `OutAddr(i, I[i])`: reversed for DAG1 in bit-reverse mode, else as it is (R71). -/
def outAddr (i : RegNo) (s : State) : Word14 :=
  if Dag.of i = .dag1 ∧ s.bitRev = true then bitrev14 s.i[i] else s.i[i]

/-! ### The next address (R73 to R78) -/

/-- The least n with `l <= 2^n`, for a 14-bit length (R77). -/
def bufferExponent (l : Nat) : Nat :=
  ((List.range 15).find? (fun n => decide (l ≤ 2 ^ n))).getD 14

/-- B: the address with its low n bits cleared (R76). DEDUCED: notes/assumptions/14.md. -/
def bufferBase (a l : Nat) : Nat :=
  a - a % 2 ^ bufferExponent l

/-- `NextAddr(a, m, l)` (R74), none where the spec leaves it unspecified (R78). The linear sum wraps modulo 2^14
(R73; DESIGN CHOICE, unsafe: notes/assumptions/13.md). -/
def nextAddr (a m l : Word14) : Option Word14 :=
  let s := m.toInt
  if l = 0 then some (BitVec.ofInt 14 (a.toNat + s))
  else
    let b := bufferBase a.toNat l.toNat
    if s.natAbs < l.toNat ∧ a.toNat - b < l.toNat then
      some (BitVec.ofInt 14 ((a.toNat + s - b) % l.toNat + b))
    else none

/-- The update of I[i] after an access through `(Ii,Mj)` (R70, R72). Where the spec leaves the new value
unspecified it is a free value of the DAG, and the statement goes on (notes/assumptions/12.md). -/
def postModify (i j : RegNo) (s : State) : State :=
  match nextAddr s.i[i] s.m[j] s.l[i] with
  | some a => s.setI i a
  | none => (s.setI i (Config.freeIndex (Dag.of i) (s.draws (Dag.of i)))).countDraw (Dag.of i)

/-- The spec leaves the I register after this statement unspecified (R78; spec/93 U3, U4). -/
def unspecifiedModify (f : Instr) (s : State) : Bool :=
  match f with
  | .ldi _ _ => false
  | .dmdR _ _ => false
  | .dmdW _ _ => false
  | .dmiR _ i j => (nextAddr s.i[i] s.m[j] s.l[i]).isNone
  | .dmiW _ i j => (nextAddr s.i[i] s.m[j] s.l[i]).isNone
  | .mov _ _ => false
  | .enaBr => false
  | .disBr => false
  | .pmiR _ i j => (nextAddr s.i[i] s.m[j] s.l[i]).isNone
  | .pmiW _ i j => (nextAddr s.i[i] s.m[j] s.l[i]).isNone

/-! ### The address of an indirect access (R53, R70) -/

/-- The data-memory address of `DM(Ii,Mj)`; a pair across the DAGs is refused (R53). -/
def dmAddress (i j : RegNo) (s : State) : Result Word14 :=
  if dmPairOk i j then .next (outAddr i s) else .refused .crossDagPair

/-- The program-memory address of `PM(Ii,Mj)`: I[i] as it stands, never reversed (R71, R110); a pair across the
DAGs, or of DAG1, is refused (R16, R53). -/
def pmAddress (i j : RegNo) (s : State) : Result Word14 :=
  if pmPairOk i j then .next s.i[i]
  else if dmPairOk i j then .refused .pmNeedsDag2
  else .refused .crossDagPair

end Sys2Proof.Machine
end

