-- ==== Sys2Proof/Machine/DataMemory.lean ====
section
/-! DEFINITION. The statements that access data memory (spec/41_dm_access.md R91 to R94). -/

namespace Sys2Proof.Machine

/-- DMD_R `reg = DM(a);` (R91, R114). -/
def execDmdR (r : Reg) (a : Word14) (s : State) : Result State :=
  thenDo (readDm a s) fun v => finish (s.busWrite r v)

/-- DMD_W `DM(a) = reg;` (R92, R114). -/
def execDmdW (r : Reg) (a : Word14) (s : State) : Result State :=
  thenDo (writeDm a (s.busRead r) s) finish

/-- DMI_R `dreg = DM(Ii,Mj);` (R93). -/
def execDmiR (d : DataReg) (i j : RegNo) (s : State) : Result State :=
  thenDo (dmAddress i j s) fun ea =>
    thenDo (readDm ea s) fun v => finish (postModify i j (s.setData d v))

/-- DMI_W `DM(Ii,Mj) = dreg;` (R94). -/
def execDmiW (d : DataReg) (i j : RegNo) (s : State) : Result State :=
  thenDo (dmAddress i j s) fun ea =>
    thenDo (writeDm ea (s.data d) s) fun s' => finish (postModify i j s')

end Sys2Proof.Machine
end

