-- ==== Sys2Proof/Machine/Flags.lean ====
section
/-! DEFINITION. The one status bit the spec describes, BIT_REV of MSTAT (spec/10_state.md R22). No statement of this
machine writes a status flag or any other MSTAT bit (spec/41_dm_access.md, R96, R97), so there is no flag to compute. -/

namespace Sys2Proof.Machine

/-- `BIT_REV <- v`. -/
def State.setBitRev (s : State) (v : Bool) : State :=
  { s with bitRev := v }

end Sys2Proof.Machine
end

