-- ==== Sys2Proof/Machine/Mode.lean ====
section
/-! DEFINITION. The statements that set and clear bit-reverse mode (spec/41_dm_access.md R96, R97). -/

namespace Sys2Proof.Machine

/-- ENA_BR `ENA BIT_REV;` (R96). -/
def execEnaBr (s : State) : Result State :=
  finish (s.setBitRev true)

/-- DIS_BR `DIS BIT_REV;` (R97). -/
def execDisBr (s : State) : Result State :=
  finish (s.setBitRev false)

end Sys2Proof.Machine
end

