-- ==== Sys2Proof/Machine/Move.lean ====
section
/-! DEFINITION. The statements that move values between registers and from constants (spec/41_dm_access.md R90, R95;
spec/42_pm_access_px.md R112, R113). -/

namespace Sys2Proof.Machine

/-- LDI `dagreg = c;` (R90). -/
def execLdi (r : DagReg) (c : Word14) (s : State) : Result State :=
  finish (s.setDagReg r c)

/-- MOV `dst = src;` (R95; R112 with PX as destination, R113 with PX as source). -/
def execMov (dst src : Reg) (s : State) : Result State :=
  finish (s.busWrite dst (s.busRead src))

end Sys2Proof.Machine
end

