-- ==== Sys2Proof/Machine/ProgramMemory.lean ====
section
/-! DEFINITION. The statements that access program memory as data, and PX with them (spec/42_pm_access_px.md R110,
R111). -/

namespace Sys2Proof.Machine

/-- PMI_R `dreg = PM(Ii,Mj);` (R110). -/
def execPmiR (d : DataReg) (i j : RegNo) (s : State) : Result State :=
  thenDo (pmAddress i j s) fun a =>
    thenDo (readPm a s) fun w =>
      finish (postModify i j ((s.setData d (pmUpper w)).setPx (pmLower w)))

/-- PMI_W `PM(Ii,Mj) = dreg;` (R111). -/
def execPmiW (d : DataReg) (i j : RegNo) (s : State) : Result State :=
  thenDo (pmAddress i j s) fun a =>
    thenDo (writePm a (pmJoin (s.data d) s.px) s) fun s' => finish (postModify i j s')

end Sys2Proof.Machine
end

