-- ==== Sys2Proof/Machine/Dispatch.lean ====
section
/-! DEFINITION. One arm per instruction of spec/opcode_table.json: which meaning it has. -/

namespace Sys2Proof.Machine

def exec (i : Instr) (s : State) : Host.Outcome State Fault Refusal :=
  match i with
  | .ldi r c => Sys2Proof.Machine.execLdi r c s
  | .dmdR r a => Sys2Proof.Machine.execDmdR r a s
  | .dmdW r a => Sys2Proof.Machine.execDmdW r a s
  | .dmiR d k j => Sys2Proof.Machine.execDmiR d k j s
  | .dmiW d k j => Sys2Proof.Machine.execDmiW d k j s
  | .mov dst src => Sys2Proof.Machine.execMov dst src s
  | .enaBr => Sys2Proof.Machine.execEnaBr s
  | .disBr => Sys2Proof.Machine.execDisBr s
  | .pmiR d k j => Sys2Proof.Machine.execPmiR d k j s
  | .pmiW d k j => Sys2Proof.Machine.execPmiW d k j s

end Sys2Proof.Machine
end

