-- ==== Sys2Proof/Machine/Run.lean ====
section
/-! DEFINITION. One step under the parameters that spec/00_scope.md R6 leaves open and that are no data of State: the
data registers, the encoding, and how an unspecified post-modify is treated. -/

namespace Sys2Proof.Machine

/-- How a model treats an I register that a post-modify leaves unspecified (R78; spec/93 U3, U4). -/
inductive Treatment where
  /-- the statement completes and the register receives a free value -/
  | freeValue
  /-- the step is a fault and nothing can be claimed of what follows (R133, D24) -/
  | fault
  deriving DecidableEq, Repr

/-- The parameters a step takes as an argument. The memory map and the reset values are data of State. -/
structure Parameters where
  /-- DREG (R6, D2): which data registers a statement may name -/
  dreg : List DataReg
  /-- ENCODING (R6, D1) -/
  encoding : Encoding
  /-- the treatment of U3 and U4 -/
  unspecified : Treatment

/-- The parameters of `step`: the family's sixteen data registers (PRESUMED, unsafe: notes/assumptions/2.md), the
candidate encoding (PRESUMED, unsafe: notes/assumptions/1.md), free values (DESIGN CHOICE, safe:
notes/assumptions/12.md). -/
def Parameters.named : Parameters :=
  { dreg := [.ax0, .ax1, .mx0, .mx1, .ay0, .ay1, .my0, .my1, .si, .se, .ar, .mr0, .mr1, .mr2, .sr0, .sr1],
    encoding := Encoding.candidate, unspecified := .freeValue }

/-- The parameters of the spec's own decisions: D2's default data registers, the faults of D24, and the candidate
encoding, which D1 leaves open. -/
def Parameters.attested : Parameters :=
  { dreg := [.ax0, .mx0], encoding := Encoding.candidate, unspecified := .fault }

/-- The instruction a fetched word stands for; a word that is none, or that names a data register outside DREG, is
refused by name (R61). -/
def decodedWith (p : Parameters) (w : Word24) : Result Instr :=
  match p.encoding.decode w with
  | .ok f => if f.admittedBy p.dreg then .next f else .refused (.undecodable .outsideDreg)
  | .error e => .refused (.undecodable e)

/-- The instruction run; a completed statement whose result is unspecified is a fault where the parameters say so
(R133). -/
def executedWith (p : Parameters) (f : Instr) (s : State) : Result State :=
  if p.unspecified = .fault ∧ unspecifiedModify f s = true then
    thenDo (exec f s) fun _ => .fault .unspecifiedModify
  else exec f s

/-- One statement (R2, R25, R41): fetch, decode, run. -/
def stepWith (p : Parameters) (s : State) : Result State :=
  thenDo (fetch s) fun w => thenDo (decodedWith p w) fun f => executedWith p f s

end Sys2Proof.Machine
end

