-- ==== Sys2Proof/Machine/Step.lean ====
section
/-! DEFINITION. The step of the machine: `stepWith` at the parameters the model names (spec/00_scope.md R2, R6;
spec/10_state.md R25). -/

namespace Sys2Proof.Machine

/-- One statement (R2, R25, R41). -/
def step (s : State) : Host.Outcome State Fault Refusal :=
  stepWith Parameters.named s

/-- `s` with the instruction whose bits are `w` placed, from outside, where `step` fetches next: the PM word at `pc`,
mapped and not marked as written by a statement (notes/assumptions/24.md). -/
def State.withFetchWord (s : State) (nbits w : Nat) : State :=
  (s.mapPm s.pc).placePm s.pc (tableWord nbits w)

end Sys2Proof.Machine
end

