-- ==== Sys2Proof/Machine/Loader.lean ====
section
/-! DEFINITION. What the world outside does before a run: the linker's placing of arrays (spec/30_encoding.md R57,
R58), `.INIT` (R59), the placing of a program (spec/70_reset_and_hazards.md R151, R153), and the end of a run (R162).
None of it is a step of the machine. -/

namespace Sys2Proof.Machine

/-- An array declared by `.VAR/DM` or `.VAR/DM/CIRC`, at the base address the linker chose (R57); a variable is an
array of length one. The qualifier `/RAM` has no meaning in the spec and is not kept (notes/assumptions/26.md). -/
structure ArrayDecl where
  name : String
  length : Nat
  circ : Bool
  base : Nat
  deriving DecidableEq, Repr

/-- The symbols a program's text may use. -/
abbrev SymbolTable := List ArrayDecl

/-- The linker may place the array where it stands: inside the 14-bit space and, if it is circular, at a multiple of
2^n (R57, R77). -/
def ArrayDecl.placed (d : ArrayDecl) : Bool :=
  decide (0 < d.length) && decide (d.base + d.length ≤ 2 ^ 14) &&
    (!d.circ || decide (d.base % 2 ^ bufferExponent d.length = 0))

/-- The array a name declares. The spec says nothing of a name declared twice (spec/91 N21); the first declaration of
the table is taken (DESIGN CHOICE, unsafe: notes/assumptions/30.md). -/
def SymbolTable.find (t : SymbolTable) (name : String) : Option ArrayDecl :=
  List.find? (fun d => decide (d.name = name)) t

/-- `.INIT`: consecutive DM words from `a` on take the values before the run (R59, R153). -/
def State.initDm (s : State) (a : Word14) : List Word16 → State
  | [] => s
  | v :: rest => State.initDm (s.putDm a v) (a + 1) rest

/-- `.INIT name: <file>;` with the file's values (R59); values beyond the array's length are not stored. -/
def State.initArray (s : State) (d : ArrayDecl) (values : List Word16) : State :=
  s.initDm (BitVec.ofNat 14 d.base) (values.take d.length)

/-- Instruction words placed at `a`, `a + 1`, ... -/
def State.placeWords (s : State) (a : Word14) : List Word24 → State
  | [] => s
  | w :: rest => State.placeWords (s.placePm a w) (a + 1) rest

/-- A program, one statement an address from `pc` (PROGRAM_BASE) on (R151). The source does not say how program
memory is loaded (R153; notes/assumptions/24.md). -/
def State.loadProgram (s : State) (e : Encoding) (program : List Instr) : State :=
  s.placeWords s.pc (program.map e.encode)

/-- A run of a program of `k` statements at `base` has ended (R162); a notion of the model, not of the chip. -/
def State.ended (s : State) (base : Word14) (k : Nat) : Bool :=
  decide (s.pc.toNat = base.toNat + k)

end Sys2Proof.Machine
end

