-- ==== Sys2Proof/Machine/Assembler.lean ====
section
/-! DEFINITION. From the text of statements, the spec's normative form (spec/00_scope.md R2), to instructions:
tokens (spec/30_encoding.md R50), the ten shapes (R51, R52), operands (R53 to R56), the operators `^` and `%` (R58), and
the refusal by name of everything else (R61). Spellings the source does not show are refused (DESIGN CHOICE, safe:
notes/assumptions/23.md). -/

namespace Sys2Proof.Machine

/-- Why a text is no statement of this machine (R61). -/
inductive AsmError where
  | badCharacter (c : Char)
  | badNumeral
  | badName
  | openComment
  | nestedComment
  | misplacedComment
  | missingSemicolon
  | shape
  | unknownRegister
  | namesMstat
  | notDagReg
  | notDataReg
  | outsideDreg
  | notIndexReg
  | notModifyReg
  | unknownSymbol
  | constantOutOfRange
  | addressOutOfRange
  | crossDagPair
  | pmNeedsDag2
  deriving DecidableEq, Repr

/-- The tokens of R50. -/
inductive Token where
  /-- an upper-case name: a register, a memory space, a mnemonic -/
  | word (s : String)
  /-- a lower-case name: a user symbol -/
  | symbol (s : String)
  /-- a decimal numeral -/
  | num (n : Nat)
  /-- a hexadecimal numeral -/
  | hex (n : Nat)
  | equals
  | lparen
  | rparen
  | comma
  | semicolon
  | caret
  | percent
  | minus
  | blank
  | lineEnd
  deriving DecidableEq, Repr

/-! ### Tokens (R50) -/

/-- The value of a digit; hexadecimal digits are written as the source does, in capitals. -/
def digitValue (base : Nat) (c : Char) : Option Nat :=
  let v := if c.isDigit then c.toNat - 48 else if c.isUpper then c.toNat - 55 else base
  if v < base then some v else none

/-- The value of a run of digits, read after `acc`. -/
def digitsValue (base acc : Nat) : List Char → Option Nat
  | [] => some acc
  | c :: cs =>
    match digitValue base c with
    | some v => digitsValue base (acc * base + v) cs
    | none => none

/-- A numeral: decimal bare and, as no numeral of the source has them, without leading zeros; hexadecimal with the
prefix `0x`. -/
def numeral : List Char → Except AsmError Token
  | '0' :: 'x' :: [] => .error .badNumeral
  | '0' :: 'x' :: cs =>
    match digitsValue 16 0 cs with
    | some n => .ok (.hex n)
    | none => .error .badNumeral
  | '0' :: _ :: _ => .error .badNumeral
  | cs =>
    match digitsValue 10 0 cs with
    | some n => .ok (.num n)
    | none => .error .badNumeral

/-- A character of a name or a numeral. -/
def isNameChar (c : Char) : Bool :=
  c.isAlphanum || decide (c = '_')

/-- The token of a run of name characters: a numeral, an upper-case name, or a user symbol, which holds lower-case
letters and underscores like those of the source and no digit. -/
def nameToken (cs : List Char) : Except AsmError Token :=
  match cs with
  | [] => .error .badName
  | c :: _ =>
    if c.isDigit then numeral cs
    else if c.isUpper && cs.all (fun x => !x.isLower) then .ok (.word (String.ofList cs))
    else if c.isLower && cs.all (fun x => x.isLower || decide (x = '_')) then .ok (.symbol (String.ofList cs))
    else .error .badName

/-- The token of a character that is no name character. -/
def signToken (c : Char) : Except AsmError Token :=
  if c = ' ' then .ok .blank
  else if c = '\n' then .ok .lineEnd
  else if c = '=' then .ok .equals
  else if c = '(' then .ok .lparen
  else if c = ')' then .ok .rparen
  else if c = ',' then .ok .comma
  else if c = ';' then .ok .semicolon
  else if c = '^' then .ok .caret
  else if c = '%' then .ok .percent
  else if c = '-' then .ok .minus
  else .error (.badCharacter c)

/-- The braces that open and close a comment. -/
def openBrace : Char := Char.ofNat 123

/-- See `openBrace`. -/
def closeBrace : Char := Char.ofNat 125

/-- The name read so far, backwards, put before the tokens that follow it. -/
def flushName (cur : List Char) (rest : Except AsmError (List Token)) : Except AsmError (List Token) :=
  match cur with
  | [] => rest
  | _ =>
    match nameToken cur.reverse, rest with
    | .ok t, .ok ts => .ok (t :: ts)
    | .error e, _ => .error e
    | .ok _, .error e => .error e

/-- A sign put before the tokens that follow it. -/
def flushSign (c : Char) (rest : Except AsmError (List Token)) : Except AsmError (List Token) :=
  match signToken c, rest with
  | .ok t, .ok ts => .ok (t :: ts)
  | .error e, _ => .error e
  | .ok _, .error e => .error e

/-- Where the reading of a text stands. -/
inductive Place where
  /-- in a statement, or before the first one -/
  | statement
  /-- after the semicolon of a statement, where its comment may stand -/
  | ended
  /-- in a comment -/
  | comment
  deriving DecidableEq, Repr

/-- Where the reading stands after the sign `c`: a semicolon ends the statement, blanks leave the place as it is. -/
def Place.after (p : Place) (c : Char) : Place :=
  if c = ';' then .ended
  else if c = ' ' then p
  else if c = '\n' then p
  else .statement

/-- The tokens of a text; `cur` is the name being read, backwards. A comment stands after a statement, one at most,
and holds no other (R50). -/
def tokensFrom (p : Place) (cur : List Char) : List Char → Except AsmError (List Token)
  | [] => if p = .comment then .error .openComment else flushName cur (.ok [])
  | c :: cs =>
    match p with
    | .comment =>
      if c = closeBrace then tokensFrom .statement [] cs
      else if c = openBrace then .error .nestedComment
      else tokensFrom .comment [] cs
    | p =>
      if isNameChar c then tokensFrom .statement (c :: cur) cs
      else if c = openBrace then
        if p = .ended then tokensFrom .comment [] cs else .error .misplacedComment
      else flushName cur (flushSign c (tokensFrom (p.after c) [] cs))

/-- The tokens of a text (R50). -/
def tokens (text : String) : Except AsmError (List Token) :=
  tokensFrom .statement [] text.toList

/-- A blank or the end of a line, which may stand before a statement. -/
def Token.isGap (t : Token) : Bool :=
  decide (t = .blank) || decide (t = .lineEnd)

/-- The statements of a run of tokens, each ended by a semicolon (R50); `cur` is the one being read, backwards. -/
def statementsFrom (cur : List Token) : List Token → Except AsmError (List (List Token))
  | [] => if cur = [] then .ok [] else .error .missingSemicolon
  | .semicolon :: ts => (statementsFrom [] ts).map (cur.reverse :: ·)
  | t :: ts => if cur = [] ∧ t.isGap = true then statementsFrom [] ts else statementsFrom (t :: cur) ts

/-- The blanks that follow a side of `=` or come before one (R50). -/
def dropBlanks (ts : List Token) : List Token :=
  ts.dropWhile (fun t => decide (t = .blank))

/-! ### Operands (R53 to R56, R58) -/

/-- A memory space as written: `DM` or `PM`. -/
inductive Space where
  | dm
  | pm
  deriving DecidableEq, Repr

/-- A constant or an address as written (R54, R55). -/
inductive Expr where
  | num (n : Int)
  /-- `^name` in a constant, `name` inside `DM( )` -/
  | addressOf (name : String)
  /-- `%name` -/
  | lengthOf (name : String)
  deriving DecidableEq, Repr

/-- One side of a statement's `=` (R52). -/
inductive Operand where
  | name (x : String)
  | direct (a : Expr)
  | indirect (sp : Space) (i j : String)
  | constant (c : Expr)
  deriving DecidableEq, Repr

/-- One side of a statement from its tokens (R51, R52, R54, R55), which no blank parts. `PM(<a>)` is no form (R31). A
minus sign stands, as in the source's -1, only in a constant, before a decimal numeral other than 0. -/
def operandOf : List Token → Except AsmError Operand
  | [.word "DM", .lparen, .word i, .comma, .word j, .rparen] => .ok (.indirect .dm i j)
  | [.word "PM", .lparen, .word i, .comma, .word j, .rparen] => .ok (.indirect .pm i j)
  | [.word "DM", .lparen, .num n, .rparen] => .ok (.direct (.num n))
  | [.word "DM", .lparen, .hex n, .rparen] => .ok (.direct (.num n))
  | [.word "DM", .lparen, .symbol x, .rparen] => .ok (.direct (.addressOf x))
  | [.word x] => .ok (.name x)
  | [.num n] => .ok (.constant (.num n))
  | [.hex n] => .ok (.constant (.num n))
  | [.minus, .num (n + 1)] => .ok (.constant (.num (-(n + 1))))
  | [.caret, .symbol x] => .ok (.constant (.addressOf x))
  | [.percent, .symbol x] => .ok (.constant (.lengthOf x))
  | _ => .error .shape

/-- The value the assembler and the linker give a constant or an address (R54, R55, R58). -/
def Expr.value (t : SymbolTable) : Expr → Except AsmError Int
  | .num n => .ok n
  | .addressOf x =>
    match t.find x with
    | some d => .ok d.base
    | none => .error .unknownSymbol
  | .lengthOf x =>
    match t.find x with
    | some d => .ok d.length
    | none => .error .unknownSymbol

/-- R54: -8192 to 16383, kept as the low 14 bits of the two's-complement form. -/
def constant14 (c : Int) : Except AsmError Word14 :=
  if -8192 ≤ c ∧ c ≤ 16383 then .ok (BitVec.ofInt 14 c) else .error .constantOutOfRange

/-- R55: 0 to 16383. -/
def address14 (a : Int) : Except AsmError Word14 :=
  if 0 ≤ a ∧ a ≤ 16383 then .ok (BitVec.ofInt 14 a) else .error .addressOutOfRange

/-- The names of the registers of REG (R24, R64). -/
def registerNames : List (String × Reg) :=
  [ ("I0", .dag (.i 0)), ("I1", .dag (.i 1)), ("I2", .dag (.i 2)), ("I3", .dag (.i 3)),
    ("I4", .dag (.i 4)), ("I5", .dag (.i 5)), ("I6", .dag (.i 6)), ("I7", .dag (.i 7)),
    ("M0", .dag (.m 0)), ("M1", .dag (.m 1)), ("M2", .dag (.m 2)), ("M3", .dag (.m 3)),
    ("M4", .dag (.m 4)), ("M5", .dag (.m 5)), ("M6", .dag (.m 6)), ("M7", .dag (.m 7)),
    ("L0", .dag (.l 0)), ("L1", .dag (.l 1)), ("L2", .dag (.l 2)), ("L3", .dag (.l 3)),
    ("L4", .dag (.l 4)), ("L5", .dag (.l 5)), ("L6", .dag (.l 6)), ("L7", .dag (.l 7)),
    ("AX0", .data .ax0), ("AX1", .data .ax1), ("MX0", .data .mx0), ("MX1", .data .mx1),
    ("AY0", .data .ay0), ("AY1", .data .ay1), ("MY0", .data .my0), ("MY1", .data .my1),
    ("SI", .data .si), ("SE", .data .se), ("AR", .data .ar), ("MR0", .data .mr0),
    ("MR1", .data .mr1), ("MR2", .data .mr2), ("SR0", .data .sr0), ("SR1", .data .sr1),
    ("PX", .px) ]

/-- A register by name; MSTAT is refused by a name of its own (R22, R61). -/
def regNamed (x : String) : Except AsmError Reg :=
  match registerNames.lookup x with
  | some r => .ok r
  | none => if x = "MSTAT" then .error .namesMstat else .error .unknownRegister

/-- A member of DAGREG by name (R24). -/
def dagRegNamed (x : String) : Except AsmError DagReg :=
  match regNamed x with
  | .ok (.dag r) => .ok r
  | .ok _ => .error .notDagReg
  | .error e => .error e

/-- A member of DREG by name (R24, R61). -/
def dataRegNamed (x : String) : Except AsmError DataReg :=
  match regNamed x with
  | .ok (.data d) => .ok d
  | .ok _ => .error .notDataReg
  | .error e => .error e

/-- The number of an index register by name (R53). -/
def indexNamed (x : String) : Except AsmError RegNo :=
  match regNamed x with
  | .ok (.dag (.i k)) => .ok k
  | .ok _ => .error .notIndexReg
  | .error e => .error e

/-- The number of a modify register by name (R53). -/
def modifyNamed (x : String) : Except AsmError RegNo :=
  match regNamed x with
  | .ok (.dag (.m k)) => .ok k
  | .ok _ => .error .notModifyReg
  | .error e => .error e

/-- The pair `(Ii,Mj)` of an indirect form, refused where R53 refuses it. -/
def pairNamed (sp : Space) (x y : String) : Except AsmError (RegNo × RegNo) :=
  match indexNamed x, modifyNamed y with
  | .ok i, .ok j =>
    if dmPairOk i j = false then .error .crossDagPair
    else if sp = .pm ∧ pmPairOk i j = false then .error .pmNeedsDag2
    else .ok (i, j)
  | .error e, _ => .error e
  | .ok _, .error e => .error e

/-! ### Statements (R51, R52) -/

/-- Put two resolved operands into an instruction; the first refusal stands. -/
def both {α β : Type} (f : α → β → Instr) (a : Except AsmError α) (b : Except AsmError β) : Except AsmError Instr :=
  match a, b with
  | .ok x, .ok y => .ok (f x y)
  | .error e, _ => .error e
  | .ok _, .error e => .error e

/-- The resolved constant of an LDI (R54). -/
def constantOf (t : SymbolTable) (e : Expr) : Except AsmError Word14 :=
  (e.value t).bind constant14

/-- The resolved address of a direct access (R55). -/
def addressOf (t : SymbolTable) (e : Expr) : Except AsmError Word14 :=
  (e.value t).bind address14

/-- The format that the two sides of a statement select, and its instruction (R52). -/
def select (t : SymbolTable) : Operand → Operand → Except AsmError Instr
  | .name x, .indirect .dm i j => both (fun d p => .dmiR d p.1 p.2) (dataRegNamed x) (pairNamed .dm i j)
  | .name x, .indirect .pm i j => both (fun d p => .pmiR d p.1 p.2) (dataRegNamed x) (pairNamed .pm i j)
  | .name x, .direct a => both .dmdR (regNamed x) (addressOf t a)
  | .indirect .dm i j, .name x => both (fun d p => .dmiW d p.1 p.2) (dataRegNamed x) (pairNamed .dm i j)
  | .indirect .pm i j, .name x => both (fun d p => .pmiW d p.1 p.2) (dataRegNamed x) (pairNamed .pm i j)
  | .direct a, .name x => both .dmdW (regNamed x) (addressOf t a)
  | .name x, .name y => both .mov (regNamed x) (regNamed y)
  | .name x, .constant c => both .ldi (dagRegNamed x) (constantOf t c)
  | _, _ => .error .shape

/-- The instruction of one statement's tokens, without its semicolon (R51, R52); blanks may stand around `=` (R50). -/
def statementOf (t : SymbolTable) (ts : List Token) : Except AsmError Instr :=
  match ts with
  | [.word "ENA", .blank, .word "BIT_REV"] => .ok .enaBr
  | [.word "DIS", .blank, .word "BIT_REV"] => .ok .disBr
  | _ =>
    let left := ts.takeWhile (fun x => decide (x ≠ .equals))
    match operandOf (dropBlanks left.reverse).reverse, ts.dropWhile (fun x => decide (x ≠ .equals)) with
    | .ok l, .equals :: rest => (operandOf (dropBlanks rest)).bind (select t l)
    | .error e, .equals :: _ => .error e
    | _, _ => .error .shape

/-- The instructions of a list of statements; the first refusal stands. -/
def statementsOf (t : SymbolTable) : List (List Token) → Except AsmError (List Instr)
  | [] => .ok []
  | s :: rest =>
    match statementOf t s, statementsOf t rest with
    | .ok i, .ok is => .ok (i :: is)
    | .error e, _ => .error e
    | .ok _, .error e => .error e

/-- The instructions of a program's text, one a statement (R2, R50, R60), with every data register that has a name. -/
def assemble (t : SymbolTable) (text : String) : Except AsmError (List Instr) :=
  ((tokens text).bind (statementsFrom [])).bind (statementsOf t)

/-- The same for a machine whose data registers are `dreg`: a text that names another is refused (R6, R61). -/
def assembleWith (dreg : List DataReg) (t : SymbolTable) (text : String) : Except AsmError (List Instr) :=
  (assemble t text).bind fun program =>
    if program.all (·.admittedBy dreg) then .ok program else .error .outsideDreg

end Sys2Proof.Machine
end

