-- ==== Sys2Proof/Safety.lean ====
section
/-! DEFINITION. The terms claims use: the invariant, what a statement leaves unchanged, values on the bus read without
the model's own conversions, the conditions of the modulo formula, and runs. -/

namespace Sys2Proof.Machine

/-! ### The invariant -/

/-- Both memories and the record of written program-memory addresses are in canonical form, and every recorded
address holds a word. -/
abbrev State.inv (s : State) : Prop :=
  s.dm.wf ∧ s.pm.wf ∧ addressesWf s.pmWritten ∧ ∀ a ∈ s.pmWritten, (s.pm.lookup a).isSome = true

/-! ### Frames -/

/-- What a statement leaves unchanged: every DAG register outside `dag`, every data register outside `data`, every
word of data memory outside `dm` and of program memory outside `pm` (both what a read gives and whether a value is
held at all), and the memory map. -/
structure Frame (s t : State) (dag : DagReg → Prop) (data : DataReg → Prop) (dm pm : Word14 → Prop) : Prop where
  dagRegs : ∀ r, ¬ dag r → t.dagReg r = s.dagReg r
  dataRegs : ∀ d, ¬ data d → t.data d = s.data d
  dmReads : ∀ a, ¬ dm a → t.dmWord a = s.dmWord a
  dmHeld : ∀ a : Word14, ¬ dm a → t.dm.lookup a.toNat = s.dm.lookup a.toNat
  pmReads : ∀ a, ¬ pm a → t.pmWord a = s.pmWord a
  pmHeld : ∀ a : Word14, ¬ pm a → t.pm.lookup a.toNat = s.pm.lookup a.toNat
  map : t.map = s.map

/-- Nothing of its kind changes. -/
def nothing {α : Type} : α → Prop := fun _ => False

/-- Exactly `a` may change. -/
def only {α : Type} (a : α) : α → Prop := fun b => b = a

/-- The model's own counters stand where they stood: no free value was drawn. -/
def SameDraws (s t : State) : Prop :=
  t.dag1Draws = s.dag1Draws ∧ t.dag2Draws = s.dag2Draws

/-- I[i] received the next free value of its DAG, which counted it; the other DAG's count stands
(notes/assumptions/12.md). -/
def FreeModify (i : RegNo) (s t : State) : Prop :=
  t.i[i] = Config.freeIndex (Dag.of i) (s.draws (Dag.of i)) ∧
    t.draws (Dag.of i) = s.draws (Dag.of i) + 1 ∧ ∀ g, g ≠ Dag.of i → t.draws g = s.draws g

/-! ### Bus values, stated by number -/

/-- `v` is what register `r` of `s` drives onto the DMD bus (R18): I, L and PX unsigned, M signed, a data register as
it reads. -/
def Drives (s : State) (r : Reg) (v : Word16) : Prop :=
  match r with
  | .dag (.i k) => v.toNat = s.i[k].toNat
  | .dag (.l k) => v.toNat = s.l[k].toNat
  | .dag (.m k) => v.toInt = s.m[k].toInt
  | .px => v.toNat = s.px.toNat
  | .data d => v = s.data d

/-- Register `r` of `t` holds the bus value `v` as a load keeps it (R19): 14 low bits, 8 low bits, or all 16; of the
two narrow data registers it says nothing. -/
def Holds (t : State) (r : Reg) (v : Word16) : Prop :=
  match r with
  | .dag q => (t.dagReg q).toNat = v.toNat % 16384
  | .px => t.px.toNat = v.toNat % 256
  | .data d => narrow d = false → t.data d = v

/-- The DAG registers that a write of `r` may change. -/
def dagOf (r : Reg) : DagReg → Prop := fun q => r = .dag q

/-- The data registers that a write of `r` may change. -/
def dataOf (r : Reg) : DataReg → Prop := fun d => r = .data d

/-! ### The conditions of the modulo formula (R74, R78, R156, R157) -/

/-- `|M| < L` for the patterns `m`, `l`. -/
def ModifyInRange (m l : Word14) : Prop :=
  m.toInt.natAbs < l.toNat

/-- `b` is a base address that R77 allows for a buffer of `l` words. -/
def BaseAllowed (b l : Nat) : Prop :=
  ∃ n : Nat, l ≤ 2 ^ n ∧ (n = 0 ∨ 2 ^ (n - 1) < l) ∧ 2 ^ n ∣ b

/-- `a` is an address of the buffer of `l` words at `b`. -/
def InBuffer (a b l : Nat) : Prop :=
  b ≤ a ∧ a < b + l

/-- The addresses that `k` accesses, each post-modified by `m`, lead to; none once a next address is unspecified. -/
def walk (m l : Word14) : Nat → Word14 → Option Word14
  | 0, a => some a
  | k + 1, a => (nextAddr a m l).bind (walk m l k)

end Sys2Proof.Machine

namespace Sys2Proof

open Machine

/-! ### Who names a register or a memory word -/

/-- The instruction names `r` as the destination of its value. -/
def Instr.writesReg : Instr → Reg → Prop
  | .ldi q _, r => r = .dag q
  | .dmdR q _, r => r = q
  | .dmiR d _ _, r => r = .data d
  | .mov dst _, r => r = dst
  | .pmiR d _ _, r => r = .data d
  | _, _ => False

/-- The instruction makes an indirect access through I`k`. -/
def Instr.accessesThrough : Instr → RegNo → Prop
  | .dmiR _ i _, k => i = k
  | .dmiW _ i _, k => i = k
  | .pmiR _ i _, k => i = k
  | .pmiW _ i _, k => i = k
  | _, _ => False

/-- The data-memory word the instruction stores to, if it stores to one. -/
def Instr.storesDm (s : State) : Instr → Word14 → Prop
  | .dmdW _ a, b => a = b
  | .dmiW _ i _, b => outAddr i s = b
  | _, _ => False

/-- The program-memory word the instruction stores to, if it stores to one. -/
def Instr.storesPm (s : State) : Instr → Word14 → Prop
  | .pmiW _ i _, b => s.i[i] = b
  | _, _ => False

/-- The instruction's address does not come from DAG1. -/
def Instr.avoidsDag1 : Instr → Prop
  | .dmiR _ i _ => Dag.of i = .dag2
  | .dmiW _ i _ => Dag.of i = .dag2
  | _ => True

end Sys2Proof

namespace Sys2Proof.Machine

/-- Replace the state of a result; a stop stays as it is. -/
def mapNext (f : State → State) : Result State → Result State
  | .next s => .next (f s)
  | .fault e => .fault e
  | .refused e => .refused e

/-! ### Runs -/

/-- `t` is reached from `s` by steps that answer a next state. -/
inductive Reaches : State → State → Prop where
  | refl (s : State) : Reaches s s
  | tail {s t u : State} : Reaches s t → step t = .next u → Reaches s u

end Sys2Proof.Machine
end

