-- ==== Sys2Proof/Certificates/Slice0/Obligations.lean ====
section
/-! DEFINITION. The statements about the model, one `Prop` each. Where a statement's clause is the model's choice and
not a rule of the spec, its docstring names the log entry. Every statement that says an instruction completes takes
`pc` below the top address from R25 and the mapped access from R33 (notes/assumptions/15.md, 9.md); a data-memory or
program-memory word nothing has written reads as a free value throughout (notes/assumptions/8.md). -/

open Sys2Proof Sys2Proof.Machine

/-! ### What each instruction does (R90 to R97, R110 to R113) -/

/-- R90: LDI with the constant `c` leaves `c mod 16384` in the named register, and nothing else changes but `pc`. -/
def Obligations.LdiLoadsConstantModulo : Prop :=
  ∀ (r : DagReg) (c : Int) (s : State), -8192 ≤ c → c ≤ 16383 → s.pc ≠ topAddress →
    ∃ w t, constant14 c = .ok w ∧ exec (.ldi r w) s = .next t ∧
      ((t.dagReg r).toNat : Int) = c % 16384 ∧ t.pc = s.pc + 1 ∧
      t.px = s.px ∧ t.bitRev = s.bitRev ∧ t.pmWritten = s.pmWritten ∧ SameDraws s t ∧
      Frame s t (only r) nothing nothing nothing

/-- R91: DMD_R loads the register from the DM word at the address in the instruction, keeping what the register has
room for; no I register is modified. What the narrow data registers keep is NarrowRegistersKeepLowByte. -/
def Obligations.DirectReadLoadsRegister : Prop :=
  ∀ (r : Reg) (a : Word14) (s : State), s.map.dmMapped a = true → s.pc ≠ topAddress →
    ∃ t, exec (.dmdR r a) s = .next t ∧ Holds t r (s.dmWord a) ∧ t.pc = s.pc + 1 ∧
      (r ≠ .px → t.px = s.px) ∧ t.bitRev = s.bitRev ∧ t.pmWritten = s.pmWritten ∧ SameDraws s t ∧
      Frame s t (dagOf r) (dataOf r) nothing nothing

/-- R92: DMD_W stores the register's 16-bit bus value at the address in the instruction, and nothing else changes
but `pc`. -/
def Obligations.DirectWriteStoresBusValue : Prop :=
  ∀ (r : Reg) (a : Word14) (s : State), s.map.dmMapped a = true → s.pc ≠ topAddress →
    ∃ t, exec (.dmdW r a) s = .next t ∧ Drives s r (t.dmWord a) ∧
      t.dm.lookup a.toNat = some (t.dmWord a) ∧ t.pc = s.pc + 1 ∧
      t.px = s.px ∧ t.bitRev = s.bitRev ∧ t.pmWritten = s.pmWritten ∧ SameDraws s t ∧
      Frame s t nothing nothing (only a) nothing

/-- R93: DMI_R loads the data register from the DM word at OutAddr and leaves NextAddr in I[i]; only those two
registers and `pc` change. Where NextAddr is unspecified see UnspecifiedModifyDrawsFreeValue; what the narrow data
registers keep is NarrowRegistersKeepLowByte. -/
def Obligations.IndirectReadLoadsAndModifies : Prop :=
  ∀ (d : DataReg) (i j : RegNo) (n : Word14) (s : State), dmPairOk i j = true →
    s.map.dmMapped (outAddr i s) = true → s.pc ≠ topAddress → nextAddr s.i[i] s.m[j] s.l[i] = some n →
    ∃ t, exec (.dmiR d i j) s = .next t ∧ (narrow d = false → t.data d = s.dmWord (outAddr i s)) ∧
      t.i[i] = n ∧ SameDraws s t ∧ t.pc = s.pc + 1 ∧
      t.px = s.px ∧ t.bitRev = s.bitRev ∧ t.pmWritten = s.pmWritten ∧
      Frame s t (only (.i i)) (only d) nothing nothing

/-- R94: DMI_W stores the data register at OutAddr and leaves NextAddr in I[i]; only that word, I[i] and `pc` change.
Where NextAddr is unspecified see UnspecifiedModifyDrawsFreeValue. -/
def Obligations.IndirectWriteStoresAndModifies : Prop :=
  ∀ (d : DataReg) (i j : RegNo) (n : Word14) (s : State), dmPairOk i j = true →
    s.map.dmMapped (outAddr i s) = true → s.pc ≠ topAddress → nextAddr s.i[i] s.m[j] s.l[i] = some n →
    ∃ t, exec (.dmiW d i j) s = .next t ∧ t.dmWord (outAddr i s) = s.data d ∧
      t.dm.lookup (outAddr i s).toNat = some (s.data d) ∧
      t.i[i] = n ∧ SameDraws s t ∧ t.pc = s.pc + 1 ∧
      t.px = s.px ∧ t.bitRev = s.bitRev ∧ t.pmWritten = s.pmWritten ∧
      Frame s t (only (.i i)) nothing (only (outAddr i s)) nothing

/-- R95, with R112 (PX as destination) and R113 (PX as source): MOV carries the source's bus value to the destination,
and nothing but the destination and `pc` changes. What the narrow data registers keep is NarrowRegistersKeepLowByte. -/
def Obligations.MoveCarriesBusValue : Prop :=
  ∀ (dst src : Reg) (s : State), s.pc ≠ topAddress →
    ∃ t v, exec (.mov dst src) s = .next t ∧ Drives s src v ∧ Holds t dst v ∧ t.pc = s.pc + 1 ∧
      (dst ≠ .px → t.px = s.px) ∧ t.bitRev = s.bitRev ∧ t.pmWritten = s.pmWritten ∧ SameDraws s t ∧
      Frame s t (dagOf dst) (dataOf dst) nothing nothing

/-- R96: ENA_BR sets the bit-reverse mode bit and changes nothing else but `pc`. -/
def Obligations.EnableSetsBitReverse : Prop :=
  ∀ s : State, s.pc ≠ topAddress →
    ∃ t, exec .enaBr s = .next t ∧ t.bitRev = true ∧ t.pc = s.pc + 1 ∧
      t.px = s.px ∧ t.pmWritten = s.pmWritten ∧ SameDraws s t ∧ Frame s t nothing nothing nothing nothing

/-- R97: DIS_BR clears the bit-reverse mode bit and changes nothing else but `pc`. -/
def Obligations.DisableClearsBitReverse : Prop :=
  ∀ s : State, s.pc ≠ topAddress →
    ∃ t, exec .disBr s = .next t ∧ t.bitRev = false ∧ t.pc = s.pc + 1 ∧
      t.px = s.px ∧ t.pmWritten = s.pmWritten ∧ SameDraws s t ∧ Frame s t nothing nothing nothing nothing

/-- R110: PMI_R loads the data register from the upper 16 bits and PX from the lower 8 bits of the PM word at I[i],
never reversed, and leaves NextAddr in I[i]; only those three registers and `pc` change. Where NextAddr is unspecified
see UnspecifiedModifyDrawsFreeValue; what the narrow data registers keep is NarrowRegistersKeepLowByte. -/
def Obligations.ProgramReadSplitsWord : Prop :=
  ∀ (d : DataReg) (i j : RegNo) (n : Word14) (s : State), pmPairOk i j = true →
    s.map.pmMapped s.i[i] = true → s.pc ≠ topAddress → nextAddr s.i[i] s.m[j] s.l[i] = some n →
    ∃ t, exec (.pmiR d i j) s = .next t ∧
      (narrow d = false → (t.data d).toNat = (s.pmWord s.i[i]).toNat / 256) ∧
      t.px.toNat = (s.pmWord s.i[i]).toNat % 256 ∧
      t.i[i] = n ∧ SameDraws s t ∧ t.pc = s.pc + 1 ∧
      t.bitRev = s.bitRev ∧ t.pmWritten = s.pmWritten ∧
      Frame s t (only (.i i)) (only d) nothing nothing

/-- R111: PMI_W stores the data register in bits 23 to 8 and PX in bits 7 to 0 of the PM word at I[i] and leaves
NextAddr in I[i]; PX is unchanged, and only that word, I[i] and `pc` change. Where NextAddr is unspecified see
UnspecifiedModifyDrawsFreeValue; the record of written words is WrittenWordIsNeverFetched's. -/
def Obligations.ProgramWriteJoinsRegisterAndPx : Prop :=
  ∀ (d : DataReg) (i j : RegNo) (n : Word14) (s : State), pmPairOk i j = true →
    s.map.pmMapped s.i[i] = true → s.pc ≠ topAddress → nextAddr s.i[i] s.m[j] s.l[i] = some n →
    ∃ t, exec (.pmiW d i j) s = .next t ∧
      (t.pmWord s.i[i]).toNat = (s.data d).toNat * 256 + s.px.toNat ∧
      t.pm.lookup s.i[i].toNat = some (t.pmWord s.i[i]) ∧
      t.i[i] = n ∧ SameDraws s t ∧ t.pc = s.pc + 1 ∧
      t.px = s.px ∧ t.bitRev = s.bitRev ∧
      Frame s t (only (.i i)) nothing nothing (only s.i[i])

/-- The model's choice (notes/assumptions/2.md): SE and MR2, loaded by any of the four loading instructions, keep
the low 8 bits and read them sign-extended. -/
def Obligations.NarrowRegistersKeepLowByte : Prop :=
  ∀ (d : DataReg) (s t : State), narrow d = true →
    (∀ a, exec (.dmdR (.data d) a) s = .next t →
      (t.data d).toInt = ((s.dmWord a).toNat : Int).bmod 256) ∧
    (∀ i j, exec (.dmiR d i j) s = .next t →
      (t.data d).toInt = ((s.dmWord (outAddr i s)).toNat : Int).bmod 256) ∧
    (∀ src v, Drives s src v → exec (.mov (.data d) src) s = .next t →
      (t.data d).toInt = (v.toNat : Int).bmod 256) ∧
    (∀ i j, exec (.pmiR d i j) s = .next t →
      (t.data d).toInt = (((s.pmWord s.i[i]).toNat / 256 : Nat) : Int).bmod 256)

/-- The model's choice (notes/assumptions/12.md): where the spec leaves NextAddr unspecified (R78), an indirect
statement still completes with its whole access, and I[i] receives the next free value of its DAG. -/
def Obligations.UnspecifiedModifyDrawsFreeValue : Prop :=
  (∀ (d : DataReg) (i j : RegNo) (s : State), dmPairOk i j = true → s.map.dmMapped (outAddr i s) = true →
    s.pc ≠ topAddress → nextAddr s.i[i] s.m[j] s.l[i] = none →
    (∃ t, exec (.dmiR d i j) s = .next t ∧ (narrow d = false → t.data d = s.dmWord (outAddr i s)) ∧
      FreeModify i s t ∧ t.pc = s.pc + 1 ∧ t.px = s.px ∧ t.bitRev = s.bitRev ∧ t.pmWritten = s.pmWritten ∧
      Frame s t (only (.i i)) (only d) nothing nothing) ∧
    (∃ t, exec (.dmiW d i j) s = .next t ∧ t.dmWord (outAddr i s) = s.data d ∧
      FreeModify i s t ∧ t.pc = s.pc + 1 ∧ t.px = s.px ∧ t.bitRev = s.bitRev ∧ t.pmWritten = s.pmWritten ∧
      Frame s t (only (.i i)) nothing (only (outAddr i s)) nothing)) ∧
  (∀ (d : DataReg) (i j : RegNo) (s : State), pmPairOk i j = true → s.map.pmMapped s.i[i] = true →
    s.pc ≠ topAddress → nextAddr s.i[i] s.m[j] s.l[i] = none →
    (∃ t, exec (.pmiR d i j) s = .next t ∧
      (narrow d = false → (t.data d).toNat = (s.pmWord s.i[i]).toNat / 256) ∧
      t.px.toNat = (s.pmWord s.i[i]).toNat % 256 ∧
      FreeModify i s t ∧ t.pc = s.pc + 1 ∧ t.bitRev = s.bitRev ∧ t.pmWritten = s.pmWritten ∧
      Frame s t (only (.i i)) (only d) nothing nothing) ∧
    (∃ t, exec (.pmiW d i j) s = .next t ∧
      (t.pmWord s.i[i]).toNat = (s.data d).toNat * 256 + s.px.toNat ∧
      FreeModify i s t ∧ t.pc = s.pc + 1 ∧ t.px = s.px ∧ t.bitRev = s.bitRev ∧
      Frame s t (only (.i i)) nothing nothing (only s.i[i])))

/-! ### The DMD bus (R18, R19) -/

/-- R18: what each register drives onto the DMD bus: I, L and PX zero-extended, M sign-extended, a data register
unchanged. -/
def Obligations.BusReadExtendsByKind : Prop :=
  ∀ (s : State) (r : Reg), Drives s r (s.busRead r)

/-- R19: what each register keeps of a bus value: the low 14 bits, the low 8 bits, or all 16. The narrow data
registers are NarrowRegistersKeepLowByte's. -/
def Obligations.BusWriteKeepsLowBits : Prop :=
  ∀ (s : State) (r : Reg) (v : Word16), Holds (s.busWrite r v) r v

/-! ### Address generation (R71 to R82) -/

/-- R17: bit reversal acts on the output address of DAG1 in bit-reverse mode and nowhere else: the reversed address
has bit `k` equal to bit `13 - k` of I[i], and every other indirect address is I[i] as it is. -/
def Obligations.BitReverseActsOnDag1OutputOnly : Prop :=
  (∀ (i : RegNo) (s : State), i.val < 4 → s.bitRev = true →
    ∀ k, k < 14 → (outAddr i s).getLsbD k = s.i[i].getLsbD (13 - k)) ∧
  (∀ (i : RegNo) (s : State), 4 ≤ i.val ∨ s.bitRev = false → outAddr i s = s.i[i])

/-- R79: bit `k` of the reversal is bit `13 - k`, and reversing twice gives the address back. -/
def Obligations.ReversalMirrorsFourteenBits : Prop :=
  ∀ a : Word14, (∀ k, k < 14 → (bitrev14 a).getLsbD k = a.getLsbD (13 - k)) ∧ bitrev14 (bitrev14 a) = a

/-- R81 (derived there): in bit-reverse mode, with a DAG1 register at `c + k * 2^(14-N)`, where `c < 2^(14-N)` is the
reversal of the first address, the low N bits of the output address are the N-bit reversal of `k` and the bits above
are those of the reversal of `c`; and with M = 2^(14-N) and L = 0 one post-modify leads to the next `k`, from the last
one back to the first. That last step passes the end of the address range and rests on the wrap of decision D6
(notes/assumptions/13.md). -/
def Obligations.ReversalOfFewerBits : Prop :=
  ∀ (n k c : Nat) (i j : RegNo) (s : State), n ≤ 14 → k < 2 ^ n → c < 2 ^ (14 - n) → i.val < 4 → s.bitRev = true →
    s.i[i] = BitVec.ofNat 14 (c + k * 2 ^ (14 - n)) →
    (∀ p, p < 14 → (outAddr i s).getLsbD p =
      if p < n then k.testBit (n - 1 - p) else (bitrev14 (BitVec.ofNat 14 c)).getLsbD p) ∧
    (s.m[j] = BitVec.ofNat 14 (2 ^ (14 - n)) → s.l[i] = 0 →
      nextAddr s.i[i] s.m[j] s.l[i] = some (BitVec.ofNat 14 (c + (k + 1) % 2 ^ n * 2 ^ (14 - n))) ∧
      (postModify i j s).i[i] = BitVec.ofNat 14 (c + (k + 1) % 2 ^ n * 2 ^ (14 - n)))

/-- R80: in bit-reverse mode an access through DAG1 goes to the reversed address, while I[i] is post-modified exactly
as in normal mode. Where the spec leaves NextAddr unspecified (R78) it is the model's choice that both accesses
complete, and both then write the same free value (DESIGN CHOICE: notes/assumptions/12.md). -/
def Obligations.BitReverseLeavesModifyInNormalOrder : Prop :=
  ∀ (d : DataReg) (i j : RegNo) (s : State), dmPairOk i j = true → i.val < 4 → s.pc ≠ topAddress →
    s.map.dmMapped s.i[i] = true → s.map.dmMapped (bitrev14 s.i[i]) = true →
    (∃ t u, exec (.dmiR d i j) (s.setBitRev true) = .next t ∧ exec (.dmiR d i j) (s.setBitRev false) = .next u ∧
      t.i = u.i ∧ t.bitRev = true ∧
      (narrow d = false → t.data d = s.dmWord (bitrev14 s.i[i]) ∧ u.data d = s.dmWord s.i[i])) ∧
    (∃ t u, exec (.dmiW d i j) (s.setBitRev true) = .next t ∧ exec (.dmiW d i j) (s.setBitRev false) = .next u ∧
      t.i = u.i ∧ t.bitRev = true ∧
      t.dmWord (bitrev14 s.i[i]) = s.data d ∧ u.dmWord s.i[i] = s.data d)

/-- R73: with L = 0 the modify value is added, read as a signed number, and the sum is kept modulo 2^14; the wrap
past either end is the spec's decision D6 (notes/assumptions/13.md). -/
def Obligations.LinearModifyAddsSigned : Prop :=
  ∀ a m : Word14, ∃ r, nextAddr a m 0 = some r ∧ (r.toNat : Int) = ((a.toNat : Int) + m.toInt) % 16384

/-- R75: for every base the base-address rule allows, with the current address in the buffer and |M| < L, the next
address is (I + M - B) modulo L + B, with the floor modulus; it lies in the buffer, and it is the sum with at most one
correction by L. -/
def Obligations.ModuloFormula : Prop :=
  ∀ (a m l : Word14) (b : Nat), l ≠ 0 → BaseAllowed b l.toNat → InBuffer a.toNat b l.toNat → ModifyInRange m l →
    ∃ r, nextAddr a m l = some r ∧ (r.toNat : Int) = ((a.toNat : Int) + m.toInt - b) % l.toNat + b ∧
      InBuffer r.toNat b l.toNat ∧
      (r.toNat : Int) =
        if (b : Int) + l.toNat ≤ a.toNat + m.toInt then a.toNat + m.toInt - l.toNat
        else if (a.toNat : Int) + m.toInt < b then a.toNat + m.toInt + l.toNat
        else a.toNat + m.toInt

/-- R76, R77: the base the hardware forms from I and L is a base the rule allows, it is the only one whose buffer
could hold the address, and a buffer of more than 8192 words starts at 0 (DEDUCED: notes/assumptions/14.md). -/
def Obligations.BaseIsDeterminedByAddressAndLength : Prop :=
  ∀ a l : Nat, a < 2 ^ 14 → 0 < l → l < 2 ^ 14 →
    BaseAllowed (bufferBase a l) l ∧ bufferBase a l ≤ a ∧
      (∀ b, BaseAllowed b l → InBuffer a b l → bufferBase a l = b) ∧ (8192 < l → bufferBase a l = 0)

/-- R78: with L non-zero, the next address is unspecified exactly when |M| >= L or the address lies outside the
buffer at the base of R76; with L = 0 it never is. -/
def Obligations.NextAddressUnspecifiedExactly : Prop :=
  ∀ a m l : Word14,
    (nextAddr a m l = none ↔
      l ≠ 0 ∧ (¬ ModifyInRange m l ∨ ¬ InBuffer a.toNat (bufferBase a.toNat l.toNat) l.toNat))

/-- R74, R99: k accesses through a circular buffer lead to the address k modify steps on, modulo the length. -/
def Obligations.CircularWalkWrapsAround : Prop :=
  ∀ (a m l : Word14) (b k : Nat), l ≠ 0 → BaseAllowed b l.toNat → InBuffer a.toNat b l.toNat → ModifyInRange m l →
    ∃ r, walk m l k a = some r ∧
      (r.toNat : Int) = ((a.toNat : Int) - b + k * m.toInt) % l.toNat + b

/-- R57, R77: for an array the linker may place, declared circular, the base formed from any address inside it is the
array's own base. -/
def Obligations.CircularArrayBaseIsItsOwn : Prop :=
  ∀ (d : ArrayDecl) (a : Nat), d.placed = true → d.circ = true → d.length < 2 ^ 14 →
    InBuffer a d.base d.length → bufferBase a d.length = d.base

/-- R83: post-modifies in different DAGs commute, and neither changes the other's address. -/
def Obligations.DagOperationsCommute : Prop :=
  ∀ (i j i' j' : RegNo) (s : State), dmPairOk i j = true → dmPairOk i' j' = true → Dag.of i ≠ Dag.of i' →
    postModify i j (postModify i' j' s) = postModify i' j' (postModify i j s) ∧
      outAddr i (postModify i' j' s) = outAddr i s

/-- R14, R16: a data-memory pair is legal exactly when both registers are of one DAG, a program-memory pair exactly
when both are of DAG2. -/
def Obligations.LegalPairsAreOfOneDag : Prop :=
  ∀ (d : DataReg) (i j : RegNo),
    (Instr.wf (.dmiR d i j) = true ↔ (i.val < 4 ∧ j.val < 4) ∨ (4 ≤ i.val ∧ 4 ≤ j.val)) ∧
    (Instr.wf (.dmiW d i j) = true ↔ (i.val < 4 ∧ j.val < 4) ∨ (4 ≤ i.val ∧ 4 ≤ j.val)) ∧
    (Instr.wf (.pmiR d i j) = true ↔ 4 ≤ i.val ∧ 4 ≤ j.val) ∧
    (Instr.wf (.pmiW d i j) = true ↔ 4 ≤ i.val ∧ 4 ≤ j.val)

/-! ### Memory (R34) -/

/-- R34: a completed write makes its value the word's, and no other word of that memory or of the other changes what
it reads as; a word nothing has written reads as a free value (notes/assumptions/8.md). -/
def Obligations.WriteSetsExactlyOneWord : Prop :=
  (∀ (a b : Word14) (v : Word16) (s t : State), writeDm a v s = .next t →
    readDm b t = (if b = a then .next v else readDm b s) ∧ readPm b t = readPm b s) ∧
  (∀ (a b : Word14) (v : Word24) (s t : State), writePm a v s = .next t →
    readPm b t = (if b = a then .next v else readPm b s) ∧ readDm b t = readDm b s)

/-! ### The whole machine -/

/-- R11, R12, R13, R23: a register changes only where an instruction names it as destination, or, for an I register,
accesses memory through it. -/
def Obligations.RegistersChangeOnlyWhereNamed : Prop :=
  ∀ (f : Instr) (s t : State), exec f s = .next t →
    (∀ q, t.dagReg q ≠ s.dagReg q → f.writesReg (.dag q) ∨ ∃ k, q = .i k ∧ f.accessesThrough k) ∧
    (∀ d, t.data d ≠ s.data d → f.writesReg (.data d))

/-- R21, R115: in one step PX changes only where the fetched instruction is a program-memory read or names PX as
destination; the fetch leaves it alone. -/
def Obligations.PxChangesOnlyByReadOrName : Prop :=
  ∀ s t : State, step s = .next t → t.px ≠ s.px →
    ∃ w f, fetch s = .next w ∧ decode w = .ok f ∧ (f.writesReg .px ∨ ∃ d i j, f = .pmiR d i j)

/-- R80: the bit-reverse mode continues until a statement resets or sets it: nothing else changes the mode bit. -/
def Obligations.ModeChangesOnlyByEnableDisable : Prop :=
  ∀ (f : Instr) (s t : State), exec f s = .next t → t.bitRev ≠ s.bitRev → f = .enaBr ∨ f = .disBr

/-- R17, R71, R80: an instruction whose address does not come from DAG1, and which is no mode statement, does the same
whatever the mode bit holds, and keeps the bit. -/
def Obligations.BitReverseInvisibleOutsideDag1 : Prop :=
  ∀ (f : Instr) (b : Bool) (s : State), f.avoidsDag1 → f ≠ .enaBr → f ≠ .disBr →
    exec f (s.setBitRev b) = mapNext (·.setBitRev b) (exec f s)

/-- R91 to R94, R110, R111: data memory changes only at the word a store to data memory addresses, program memory only
at the word a store to program memory addresses, and the map never. -/
def Obligations.MemoryChangesOnlyByStores : Prop :=
  ∀ (f : Instr) (s t : State), exec f s = .next t →
    (∀ a, ¬ f.storesDm s a → t.dmWord a = s.dmWord a ∧ t.dm.lookup a.toNat = s.dm.lookup a.toNat) ∧
    (∀ a, ¬ f.storesPm s a → t.pmWord a = s.pmWord a ∧ t.pm.lookup a.toNat = s.pm.lookup a.toNat) ∧
    t.map = s.map

/-- R118: a program-memory read and then a program-memory write through another pair copy all 24 bits of the word,
because PX carries the low 8. -/
def Obligations.ReadThenWriteCopiesWholeWord : Prop :=
  ∀ (d : DataReg) (i j i' j' : RegNo) (s t u : State), narrow d = false → i' ≠ i →
    exec (.pmiR d i j) s = .next t → exec (.pmiW d i' j') t = .next u →
    u.pmWord s.i[i'] = s.pmWord s.i[i]

/-- R25: a completed statement advances `pc` by one without wrapping; at the top address no statement completes (the
spec's decisions D3 and D4, notes/assumptions/15.md). -/
def Obligations.PcAdvancesByOneOrRefuses : Prop :=
  (∀ (f : Instr) (s t : State), exec f s = .next t → t.pc.toNat = s.pc.toNat + 1) ∧
  (∀ (f : Instr) (s t : State), s.pc = topAddress → exec f s ≠ .next t) ∧
  (∀ (r : DagReg) (c : Word14) (dst src : Reg) (s : State), s.pc = topAddress →
    exec (.ldi r c) s = .refused .pcPastTop ∧ exec (.mov dst src) s = .refused .pcPastTop ∧
    exec .enaBr s = .refused .pcPastTop ∧ exec .disBr s = .refused .pcPastTop)

/-- R133, R78: the free-value counters move in exactly the completed statements whose I register the spec leaves
unspecified, so a claim that those are no steps (D24) takes unchanged counters as its premise
(notes/assumptions/12.md). -/
def Obligations.DrawsMarkUnspecifiedResults : Prop :=
  ∀ (f : Instr) (s t : State), exec f s = .next t → (SameDraws s t ↔ unspecifiedModify f s = false)

/-- R33: an access to an address the map does not hold has no step (the spec's decision D9, notes/assumptions/9.md). -/
def Obligations.UnmappedAccessIsStuck : Prop :=
  (∀ (r : Reg) (a : Word14) (s : State), s.map.dmMapped a = false →
    exec (.dmdR r a) s = .fault (.dmUnmapped a) ∧ exec (.dmdW r a) s = .fault (.dmUnmapped a)) ∧
  (∀ (d : DataReg) (i j : RegNo) (s : State), dmPairOk i j = true → s.map.dmMapped (outAddr i s) = false →
    exec (.dmiR d i j) s = .fault (.dmUnmapped (outAddr i s)) ∧
    exec (.dmiW d i j) s = .fault (.dmUnmapped (outAddr i s))) ∧
  (∀ (d : DataReg) (i j : RegNo) (s : State), pmPairOk i j = true → s.map.pmMapped s.i[i] = false →
    exec (.pmiR d i j) s = .fault (.pmUnmapped s.i[i]) ∧ exec (.pmiW d i j) s = .fault (.pmUnmapped s.i[i]))

/-- R53: a pair that crosses the DAGs, and a program-memory pair of DAG1, is refused: the assembler accepts only an
index register and then a modify register that make a legal pair. That the machine refuses such a term by name when it
is run is the model's choice (DEDUCED: notes/assumptions/29.md), and so is that this name comes before every other
reason to stop (DESIGN CHOICE: notes/assumptions/27.md). -/
def Obligations.IllegalPairsAreRefused : Prop :=
  (∀ (d : DataReg) (i j : RegNo) (s : State), Dag.of i ≠ Dag.of j →
    exec (.dmiR d i j) s = .refused .crossDagPair ∧ exec (.dmiW d i j) s = .refused .crossDagPair ∧
    exec (.pmiR d i j) s = .refused .crossDagPair ∧ exec (.pmiW d i j) s = .refused .crossDagPair) ∧
  (∀ (d : DataReg) (i j : RegNo) (s : State), Dag.of i = .dag1 → Dag.of j = .dag1 →
    exec (.pmiR d i j) s = .refused .pmNeedsDag2 ∧ exec (.pmiW d i j) s = .refused .pmNeedsDag2) ∧
  (∀ (sp : Space) (x y : String) (i j : RegNo), pairNamed sp x y = .ok (i, j) →
    indexNamed x = .ok i ∧ modifyNamed y = .ok j ∧ Dag.of i = Dag.of j ∧ (sp = .pm → Dag.of i = .dag2))

/-- The memories and the record of written words are in canonical form, and every step keeps them so. -/
def Obligations.StepKeepsCanonicalMemories : Prop :=
  ∀ s t : State, s.inv → step s = .next t → t.inv

/-- R150: whatever values reset leaves in what the spec calls random or unspecified, the machine starts at the program
base with canonical memories that hold no word and no record of a write. State.reset is the one such state with the
values the model names, none of them the spec's: DAG registers 0 (DESIGN CHOICE: notes/assumptions/3.md), PX 0 (DESIGN
CHOICE: 4.md), BIT_REV 0 and `pc` 0x0000 (PRESUMED, the family's: 5.md), data registers 0 (DESIGN CHOICE: 6.md), every
address mapped (DESIGN CHOICE: 9.md). -/
def Obligations.EveryResetStartsCanonical : Prop :=
  (∀ r : ResetValues, (State.resetWith r).inv ∧ (State.resetWith r).pc = r.programBase ∧
    (∀ a, (State.resetWith r).dm.lookup a = none ∧ (State.resetWith r).pm.lookup a = none) ∧
    (State.resetWith r).pmWritten = []) ∧
  State.reset = State.resetWith ResetValues.named ∧
  (∀ q, State.reset.dagReg q = 0) ∧ State.reset.px = 0 ∧ State.reset.bitRev = false ∧ State.reset.pc = 0x0000 ∧
  (∀ d, State.reset.data d = 0) ∧
  ∀ a, State.reset.map.dmMapped a = true ∧ State.reset.map.pmMapped a = true

/-! ### Fetching and running (R2, R25, R44, R61) -/

/-- R2, R25: where the word at `pc` is held, mapped, not written by a statement, and decodes, a step is the
instruction run on the same state: the fetch changes nothing. The same under every encoding and every DREG (R6) that
admits the instruction, where an unspecified result is a free value (notes/assumptions/12.md). -/
def Obligations.StepRunsDecodedInstruction : Prop :=
  ∀ (s : State) (w : Word24) (f : Instr), s.pc.toNat ∉ s.pmWritten → s.map.pmMapped s.pc = true →
    s.pm.lookup s.pc.toNat = some w →
    (decode w = .ok f → step s = exec f s) ∧
    ∀ p : Parameters, p.unspecified = .freeValue → f.admittedBy p.dreg = true → p.encoding.decode w = .ok f →
      stepWith p s = exec f s

/-- R133, D24, U3, U4: with the parameters' treatment at fault, a statement that would complete with an unspecified I
register is a fault and has no next state, and every other statement runs as it does in `step`
(notes/assumptions/12.md says why `step` itself has the other treatment). -/
def Obligations.UnspecifiedResultIsFaultUnderD24 : Prop :=
  ∀ (p : Parameters) (s t : State) (w : Word24) (f : Instr), p.unspecified = .fault → fetch s = .next w →
    p.encoding.decode w = .ok f → f.admittedBy p.dreg = true →
    (unspecifiedModify f s = true → exec f s = .next t → stepWith p s = .fault .unspecifiedModify) ∧
    (unspecifiedModify f s = false → stepWith p s = exec f s) ∧
    (stepWith p s = .next t → SameDraws s t)

/-- R6, R61: a word that decodes to an instruction naming a data register outside DREG is refused, and so is a text
that yields one, whatever DREG is; the name of the refusal is the model's (notes/assumptions/2.md). -/
def Obligations.RegistersOutsideDregAreRefused : Prop :=
  (∀ (p : Parameters) (s : State) (w : Word24) (f : Instr) (d : DataReg), fetch s = .next w →
    p.encoding.decode w = .ok f → d ∈ f.dataRegs → d ∉ p.dreg →
    stepWith p s = .refused (.undecodable .outsideDreg)) ∧
  (∀ (dreg : List DataReg) (t : SymbolTable) (text : String) (program : List Instr),
    assembleWith dreg t text = .ok program ↔
      assemble t text = .ok program ∧ ∀ f ∈ program, ∀ d ∈ f.dataRegs, d ∈ dreg)

/-- R33, R44, R61: how a step stops before an instruction runs (the choices of notes/assumptions/9.md, 11.md, 16.md). -/
def Obligations.FetchStopsByName : Prop :=
  ∀ s : State,
    (s.pc.toNat ∈ s.pmWritten → step s = .refused (.writtenWordFetched s.pc)) ∧
    (s.pc.toNat ∉ s.pmWritten → s.map.pmMapped s.pc = false → step s = .fault (.fetchUnmapped s.pc)) ∧
    (s.pc.toNat ∉ s.pmWritten → s.map.pmMapped s.pc = true → s.pm.lookup s.pc.toNat = none →
      step s = .fault (.fetchUnwritten s.pc)) ∧
    (∀ w e, s.pc.toNat ∉ s.pmWritten → s.map.pmMapped s.pc = true → s.pm.lookup s.pc.toNat = some w →
      decode w = .error e → step s = .refused (.undecodable e))

/-- R44: a program-memory write records its address and no other, and a recorded address is never fetched again in
the run: however many steps follow, a step with `pc` there is refused (the spec's decision D12,
notes/assumptions/16.md). -/
def Obligations.WrittenWordIsNeverFetched : Prop :=
  ∀ (d : DataReg) (i j : RegNo) (s t : State), exec (.pmiW d i j) s = .next t →
    (∀ a, a ∈ t.pmWritten ↔ a = s.i[i].toNat ∨ a ∈ s.pmWritten) ∧
    ∀ u, Reaches t u → u.pc = s.i[i] → step u = .refused (.writtenWordFetched s.i[i])

/-- The word placed by withFetchWord is the one the next step runs (notes/assumptions/24.md). -/
def Obligations.PlacedWordRunsNext : Prop :=
  ∀ (s : State) (nbits w : Nat) (f : Instr), decodeTableWord nbits w = some f →
    step (s.withFetchWord nbits w) = exec f (s.withFetchWord nbits w)

/-- R151: a loaded program's k-th statement stands, encoded by whatever encoding it is loaded with (R6), k addresses
after the base. -/
def Obligations.LoadedProgramStandsInOrder : Prop :=
  ∀ (s : State) (e : Encoding) (program : List Instr) (k : Nat) (f : Instr),
    s.pc.toNat + program.length ≤ 2 ^ 14 → program[k]? = some f →
    (s.loadProgram e program).pm.lookup (s.pc.toNat + k) = some (e.encode f) ∧
      s.pc.toNat + k ∉ (s.loadProgram e program).pmWritten

/-- R2, R151, D1: under every encoding, a program loaded with it runs its k-th statement, as that statement's meaning,
once `pc` is k addresses after the base, if the encoding's word for the statement decodes to it (loading from outside:
notes/assumptions/24.md; an unspecified result as a free value: notes/assumptions/12.md). -/
def Obligations.LoadedStatementRunsUnderEveryEncoding : Prop :=
  ∀ (p : Parameters) (s : State) (program : List Instr) (k : Nat) (f : Instr),
    p.encoding.decode (p.encoding.encode f) = .ok f → p.unspecified = .freeValue → f.admittedBy p.dreg = true →
    s.pc.toNat + program.length ≤ 2 ^ 14 → program[k]? = some f →
    s.map.pmMapped (s.pc + BitVec.ofNat 14 k) = true →
    stepWith p ((s.loadProgram p.encoding program).setPc (s.pc + BitVec.ofNat 14 k)) =
      exec f ((s.loadProgram p.encoding program).setPc (s.pc + BitVec.ofNat 14 k))

/-! ### Encoding and text (R51 to R55, R63 to R66) -/

/-- Every well-formed instruction's word decodes to it, with every operand at every value (the encoding is PRESUMED:
notes/assumptions/1.md). -/
def Obligations.DecodeEncodeRoundTrip : Prop :=
  ∀ f : Instr, f.wf = true → decode (encode f) = .ok f

/-- Every word that decodes is the word of a well-formed instruction: no bit of a decoded word is ignored (the
encoding is PRESUMED: notes/assumptions/1.md). -/
def Obligations.DecodedWordIsItsEncoding : Prop :=
  ∀ (w : Word24) (f : Instr), decode w = .ok f → f.wf = true ∧ encode f = w

/-- No two formats overlap: a word matches at most one row of the table (the encoding is PRESUMED:
notes/assumptions/1.md). -/
def Obligations.OpcodeRowsDoNotOverlap : Prop :=
  ∀ (w : Word24) (p q : OpcodeRow), p ∈ opcodeRows → q ∈ opcodeRows →
    w &&& p.mask = p.pattern → w &&& q.mask = q.pattern → p = q

/-- Candidate words of the source's own statements, one or two a family (R66; the encoding is PRESUMED:
notes/assumptions/1.md). -/
def Obligations.ExampleWordsDecode : Prop :=
  decode 0x378003 = .ok (.ldi (.i 3) 0x3800) ∧ decode 0x340006 = .ok (.ldi (.m 2) 0) ∧
  decode 0x60000E = .ok (.dmiR .ax0 3 2) ∧ decode 0x500000 = .ok (.pmiR .ax0 4 4) ∧
  decode 0x580000 = .ok (.pmiW .ax0 4 4) ∧ decode 0x0D0C70 = .ok (.mov .px (.data .ax0)) ∧
  decode 0x0D0307 = .ok (.mov (.data .ax0) .px) ∧ decode 0x0C00C0 = .ok .enaBr ∧ decode 0x0C0080 = .ok .disBr

/-- R54, R55: the assembler accepts a constant exactly in -8192 .. 16383 and keeps it modulo 16384, and an address
exactly in 0 .. 16383 (the range of constants is the spec's decision D16, notes/assumptions/23.md). -/
def Obligations.ConstantAndAddressRanges : Prop :=
  ∀ (c : Int) (w : Word14),
    (constant14 c = .ok w ↔ (-8192 ≤ c ∧ c ≤ 16383) ∧ (w.toNat : Int) = c % 16384) ∧
    (address14 c = .ok w ↔ (0 ≤ c ∧ c ≤ 16383) ∧ (w.toNat : Int) = c)

/-- R51, R53, R61: whatever text the assembler accepts, every instruction it yields is well-formed. -/
def Obligations.AssembledInstructionsAreWellFormed : Prop :=
  ∀ (t : SymbolTable) (text : String) (program : List Instr), assemble t text = .ok program →
    ∀ f ∈ program, f.wf = true
end

