-- ==== Sys2Proof/Laws/Encoding.lean ====
section
/-! SUPPORT. Which row of R65 a word matches, read off its leading bits. -/

namespace Sys2Proof

/-- A row whose leading nibble disagrees with the word's does not match it. -/
theorem row_misses (w m p : Word24)
    (h : w.extractLsb' 20 4 &&& m.extractLsb' 20 4 ≠ p.extractLsb' 20 4) : (w &&& m == p) = false := by
  rw [beq_eq_false_iff_ne]
  rintro rfl
  exact h (BitVec.extractLsb'_and ..).symm

/-- The leading nibble of a word put together from a nibble and the rest. -/
theorem nibble_append (n : BitVec 4) (x : BitVec 20) : BitVec.extractLsb' 20 4 (n ++ x) = n := by
  rw [BitVec.extractLsb'_append_eq_of_le (by decide)]
  exact BitVec.extractLsb'_eq_self

/-- A row that fixes the leading nibble alone, seen from a word put together from a nibble and the rest. -/
theorem nibble_row (n : BitVec 4) (x : BitVec 20) : (n ++ x : Word24) &&& 0xF00000 = n ++ 0#20 := by
  rw [show (0xF00000 : Word24) = 0xF#4 ++ 0#20 from rfl, BitVec.and_append, BitVec.and_zero]
  congr 1
  exact BitVec.and_allOnes

theorem formatOf_ldi (x : BitVec 20) : formatOf (0x3#4 ++ x) = some .ldi := by
  simp only [formatOf, opcodeRows, List.find?]
  rw [nibble_row]
  rfl

theorem formatOf_dmdR (x : BitVec 20) : formatOf (0x8#4 ++ x) = some .dmdR := by
  simp only [formatOf, opcodeRows, List.find?]
  rw [nibble_row]
  rfl

theorem formatOf_dmdW (x : BitVec 20) : formatOf (0x9#4 ++ x) = some .dmdW := by
  simp only [formatOf, opcodeRows, List.find?]
  rw [nibble_row]
  rfl

theorem formatOf_dmiR1 : ∀ y : BitVec 8, formatOf (0x6000#16 ++ y) = some .dmiR := by decide

theorem formatOf_dmiR2 : ∀ y : BitVec 8, formatOf (0x7000#16 ++ y) = some .dmiR := by decide

theorem formatOf_dmiW1 : ∀ y : BitVec 8, formatOf (0x6800#16 ++ y) = some .dmiW := by decide

theorem formatOf_dmiW2 : ∀ y : BitVec 8, formatOf (0x7800#16 ++ y) = some .dmiW := by decide

theorem formatOf_pmiR : ∀ y : BitVec 8, formatOf (0x5000#16 ++ y) = some .pmiR := by decide

theorem formatOf_pmiW : ∀ y : BitVec 8, formatOf (0x5800#16 ++ y) = some .pmiW := by decide

theorem formatOf_mov (y : BitVec 12) : formatOf (0x0D0#12 ++ y) = some .mov := by
  have hn : (0x0D0#12 ++ y : Word24).extractLsb' 20 4 = 0 := by
    rw [BitVec.extractLsb'_append_eq_ite]
    rfl
  have h : (0x0D0#12 ++ y : Word24) &&& 0xFFF000 = 0x0D0000 := by
    rw [show (0xFFF000 : Word24) = 0xFFF#12 ++ 0#12 from rfl, BitVec.and_append, BitVec.and_zero]
    rfl
  have miss : ∀ m p : Word24, (0#4 &&& m.extractLsb' 20 4 ≠ p.extractLsb' 20 4) →
      ((0x0D0#12 ++ y : Word24) &&& m == p) = false := fun m p hmp => row_misses _ _ _ (hn ▸ hmp)
  simp only [formatOf, opcodeRows, List.find?]
  rw [miss _ _ (by decide), miss _ _ (by decide), miss _ _ (by decide), miss _ _ (by decide), miss _ _ (by decide),
    miss _ _ (by decide), miss _ _ (by decide), h]
  rfl

end Sys2Proof
end

