-- ==== Sys2Proof/Laws/Memory.lean ====
section
/-! SUPPORT. Sparse memory: a read after a write, and the canonical form kept by every operation. -/

namespace Sys2Proof.Machine

variable {w : Nat}

@[simp] theorem Memory.lookup_store_self (m : Memory w) (a : Nat) (v : BitVec w) :
    Memory.lookup (Memory.store m a v) a = some v := by
  induction m with
  | nil => simp [Memory.store, Memory.lookup]
  | cons c rest ih =>
    obtain ⟨b, u⟩ := c
    unfold Memory.store
    split
    · simp [Memory.lookup]
    · split
      · simp [Memory.lookup]
      · simp [Memory.lookup, *]

theorem Memory.lookup_store_of_ne (m : Memory w) (a b : Nat) (v : BitVec w) (h : b ≠ a) :
    Memory.lookup (Memory.store m a v) b = Memory.lookup m b := by
  induction m with
  | nil => simp [Memory.store, Memory.lookup, h]
  | cons c rest ih =>
    obtain ⟨x, u⟩ := c
    unfold Memory.store
    split
    · simp [Memory.lookup, h]
    · split
      · subst_vars; simp [Memory.lookup, h]
      · simp only [Memory.lookup, ih]

/-- The addresses of a memory after a store: those before, and the one stored to. -/
theorem Memory.mem_store (m : Memory w) (a : Nat) (v : BitVec w) (c : Nat × BitVec w)
    (h : c ∈ Memory.store m a v) : c = (a, v) ∨ c ∈ m := by
  induction m with
  | nil => simpa [Memory.store] using h
  | cons d rest ih =>
    obtain ⟨x, u⟩ := d
    unfold Memory.store at h
    split at h
    · simpa using h
    · split at h
      · rcases List.mem_cons.mp h with h | h
        · exact .inl h
        · exact .inr (List.mem_cons_of_mem _ h)
      · rcases List.mem_cons.mp h with h | h
        · exact .inr (h ▸ List.mem_cons_self)
        · exact (ih h).imp_right (List.mem_cons_of_mem _)

theorem Memory.store_rising (m : Memory w) (a : Nat) (v : BitVec w)
    (hm : m.Pairwise (fun c d => c.1 < d.1)) :
    (Memory.store m a v).Pairwise (fun c d => c.1 < d.1) := by
  induction m with
  | nil => simp [Memory.store]
  | cons c rest ih =>
    obtain ⟨x, u⟩ := c
    obtain ⟨hx, hrest⟩ := List.pairwise_cons.mp hm
    unfold Memory.store
    split
    · rename_i hlt
      refine List.pairwise_cons.mpr ⟨fun d hd => ?_, hm⟩
      rcases List.mem_cons.mp hd with rfl | hd
      · exact hlt
      · exact Nat.lt_trans hlt (hx d hd)
    · split
      · rename_i heq
        exact List.pairwise_cons.mpr ⟨fun d hd => heq ▸ hx d hd, hrest⟩
      · rename_i hlt hne
        refine List.pairwise_cons.mpr ⟨fun d hd => ?_, ih hrest⟩
        rcases Memory.mem_store rest a v d hd with rfl | hd
        · show x < a; omega
        · exact hx d hd

/-- A store inside the 14-bit space keeps the canonical form. -/
theorem Memory.store_wf (m : Memory w) (a : Nat) (v : BitVec w) (hm : m.wf) (ha : a < 2 ^ 14) :
    (Memory.store m a v).wf := by
  refine ⟨Memory.store_rising m a v hm.1, fun c hc => ?_⟩
  rcases Memory.mem_store m a v c hc with rfl | hc
  · exact ha
  · exact hm.2 c hc

theorem Memory.nil_wf : Memory.wf ([] : Memory w) := by
  simp [Memory.wf]

/-! ### The record of written addresses -/

theorem mem_recordAddress (as : List Nat) (a b : Nat) : b ∈ recordAddress as a ↔ b = a ∨ b ∈ as := by
  induction as with
  | nil => simp [recordAddress]
  | cons x rest ih =>
    unfold recordAddress
    split
    · simp
    · split
      · subst_vars; simp
      · simp only [List.mem_cons, ih]; tauto

theorem recordAddress_rising (as : List Nat) (a : Nat) (h : as.Pairwise (· < ·)) :
    (recordAddress as a).Pairwise (· < ·) := by
  induction as with
  | nil => simp [recordAddress]
  | cons x rest ih =>
    obtain ⟨hx, hrest⟩ := List.pairwise_cons.mp h
    unfold recordAddress
    split
    · rename_i hlt
      refine List.pairwise_cons.mpr ⟨fun d hd => ?_, h⟩
      rcases List.mem_cons.mp hd with rfl | hd
      · exact hlt
      · exact Nat.lt_trans hlt (hx d hd)
    · split
      · exact h
      · rename_i hlt hne
        refine List.pairwise_cons.mpr ⟨fun d hd => ?_, ih hrest⟩
        rcases (mem_recordAddress rest a d).mp hd with rfl | hd
        · show x < d; omega
        · exact hx d hd

/-- Recording an address of the 14-bit space keeps the canonical form. -/
theorem recordAddress_wf (as : List Nat) (a : Nat) (h : addressesWf as) (ha : a < 2 ^ 14) :
    addressesWf (recordAddress as a) := by
  refine ⟨recordAddress_rising as a h.1, fun b hb => ?_⟩
  rcases (mem_recordAddress as a b).mp hb with rfl | hb
  · exact ha
  · exact h.2 b hb

/-! ### The operations of the state over memory -/

theorem State.putDm_dm_wf (s : State) (a : Word14) (v : Word16) (h : s.dm.wf) : (s.putDm a v).dm.wf :=
  Memory.store_wf _ _ _ h a.isLt

theorem State.putPm_pm_wf (s : State) (a : Word14) (v : Word24) (h : s.pm.wf) : (s.putPm a v).pm.wf :=
  Memory.store_wf _ _ _ h a.isLt

theorem State.putPm_pmWritten_wf (s : State) (a : Word14) (v : Word24) (h : addressesWf s.pmWritten) :
    addressesWf (s.putPm a v).pmWritten :=
  recordAddress_wf _ _ h a.isLt

theorem State.placePm_pm_wf (s : State) (a : Word14) (v : Word24) (h : s.pm.wf) : (s.placePm a v).pm.wf :=
  Memory.store_wf _ _ _ h a.isLt

theorem State.placePm_pmWritten_wf (s : State) (a : Word14) (v : Word24) (h : addressesWf s.pmWritten) :
    addressesWf (s.placePm a v).pmWritten :=
  ⟨h.1.filter _, fun b hb => h.2 b (List.mem_of_mem_filter hb)⟩

theorem State.initDm_dm_wf (s : State) (a : Word14) (values : List Word16) (h : s.dm.wf) :
    (s.initDm a values).dm.wf := by
  induction values generalizing s a with
  | nil => exact h
  | cons v rest ih => exact ih _ _ (s.putDm_dm_wf a v h)

theorem State.placeWords_pm_wf (s : State) (a : Word14) (words : List Word24) (h : s.pm.wf) :
    (s.placeWords a words).pm.wf := by
  induction words generalizing s a with
  | nil => exact h
  | cons v rest ih => exact ih _ _ (s.placePm_pm_wf a v h)

@[simp] theorem State.placeWords_map (s : State) (a : Word14) (words : List Word24) :
    (s.placeWords a words).map = s.map := by
  induction words generalizing s a with
  | nil => rfl
  | cons v rest ih => exact ih _ _

theorem State.resetWith_wf (r : ResetValues) :
    (State.resetWith r).dm.wf ∧ (State.resetWith r).pm.wf ∧ addressesWf (State.resetWith r).pmWritten :=
  ⟨Memory.nil_wf, Memory.nil_wf, by simp [State.resetWith, addressesWf]⟩

/-! ### What a word reads as after a write (R34) -/

@[simp] theorem State.putDm_dmWord_self (s : State) (a : Word14) (v : Word16) : (s.putDm a v).dmWord a = v := by
  simp [State.dmWord, State.putDm]

theorem State.putDm_dmWord_of_ne (s : State) (a b : Word14) (v : Word16) (h : b ≠ a) :
    (s.putDm a v).dmWord b = s.dmWord b := by
  simp [State.dmWord, State.putDm, Memory.lookup_store_of_ne _ _ _ _ (fun e => h (BitVec.eq_of_toNat_eq e))]

@[simp] theorem State.putPm_pmWord_self (s : State) (a : Word14) (v : Word24) : (s.putPm a v).pmWord a = v := by
  simp [State.pmWord, State.putPm]

theorem State.putPm_pmWord_of_ne (s : State) (a b : Word14) (v : Word24) (h : b ≠ a) :
    (s.putPm a v).pmWord b = s.pmWord b := by
  simp [State.pmWord, State.putPm, Memory.lookup_store_of_ne _ _ _ _ (fun e => h (BitVec.eq_of_toNat_eq e))]

end Sys2Proof.Machine
end

