-- ==== Sys2Proof/Laws/State.lean ====
section
/-! SUPPORT. What each update of the state does to each field, so that no proof unfolds a record update. -/

namespace Sys2Proof.Machine

/-! ### State.setI -/

@[simp] theorem State.setI_i (s : State) (k : RegNo) (v : Word14) : (s.setI k v).i = s.i.set k.val v k.isLt := rfl
@[simp] theorem State.setI_m (s : State) (k : RegNo) (v : Word14) : (s.setI k v).m = s.m := rfl
@[simp] theorem State.setI_l (s : State) (k : RegNo) (v : Word14) : (s.setI k v).l = s.l := rfl
@[simp] theorem State.setI_px (s : State) (k : RegNo) (v : Word14) : (s.setI k v).px = s.px := rfl
@[simp] theorem State.setI_bitRev (s : State) (k : RegNo) (v : Word14) : (s.setI k v).bitRev = s.bitRev := rfl
@[simp] theorem State.setI_regs (s : State) (k : RegNo) (v : Word14) : (s.setI k v).regs = s.regs := rfl
@[simp] theorem State.setI_pc (s : State) (k : RegNo) (v : Word14) : (s.setI k v).pc = s.pc := rfl
@[simp] theorem State.setI_dm (s : State) (k : RegNo) (v : Word14) : (s.setI k v).dm = s.dm := rfl
@[simp] theorem State.setI_pm (s : State) (k : RegNo) (v : Word14) : (s.setI k v).pm = s.pm := rfl
@[simp] theorem State.setI_pmWritten (s : State) (k : RegNo) (v : Word14) : (s.setI k v).pmWritten = s.pmWritten := rfl
@[simp] theorem State.setI_map (s : State) (k : RegNo) (v : Word14) : (s.setI k v).map = s.map := rfl
@[simp] theorem State.setI_dag1Draws (s : State) (k : RegNo) (v : Word14) : (s.setI k v).dag1Draws = s.dag1Draws := rfl
@[simp] theorem State.setI_dag2Draws (s : State) (k : RegNo) (v : Word14) : (s.setI k v).dag2Draws = s.dag2Draws := rfl

/-! ### State.setM -/

@[simp] theorem State.setM_i (s : State) (k : RegNo) (v : Word14) : (s.setM k v).i = s.i := rfl
@[simp] theorem State.setM_m (s : State) (k : RegNo) (v : Word14) : (s.setM k v).m = s.m.set k.val v k.isLt := rfl
@[simp] theorem State.setM_l (s : State) (k : RegNo) (v : Word14) : (s.setM k v).l = s.l := rfl
@[simp] theorem State.setM_px (s : State) (k : RegNo) (v : Word14) : (s.setM k v).px = s.px := rfl
@[simp] theorem State.setM_bitRev (s : State) (k : RegNo) (v : Word14) : (s.setM k v).bitRev = s.bitRev := rfl
@[simp] theorem State.setM_regs (s : State) (k : RegNo) (v : Word14) : (s.setM k v).regs = s.regs := rfl
@[simp] theorem State.setM_pc (s : State) (k : RegNo) (v : Word14) : (s.setM k v).pc = s.pc := rfl
@[simp] theorem State.setM_dm (s : State) (k : RegNo) (v : Word14) : (s.setM k v).dm = s.dm := rfl
@[simp] theorem State.setM_pm (s : State) (k : RegNo) (v : Word14) : (s.setM k v).pm = s.pm := rfl
@[simp] theorem State.setM_pmWritten (s : State) (k : RegNo) (v : Word14) : (s.setM k v).pmWritten = s.pmWritten := rfl
@[simp] theorem State.setM_map (s : State) (k : RegNo) (v : Word14) : (s.setM k v).map = s.map := rfl
@[simp] theorem State.setM_dag1Draws (s : State) (k : RegNo) (v : Word14) : (s.setM k v).dag1Draws = s.dag1Draws := rfl
@[simp] theorem State.setM_dag2Draws (s : State) (k : RegNo) (v : Word14) : (s.setM k v).dag2Draws = s.dag2Draws := rfl

/-! ### State.setL -/

@[simp] theorem State.setL_i (s : State) (k : RegNo) (v : Word14) : (s.setL k v).i = s.i := rfl
@[simp] theorem State.setL_m (s : State) (k : RegNo) (v : Word14) : (s.setL k v).m = s.m := rfl
@[simp] theorem State.setL_l (s : State) (k : RegNo) (v : Word14) : (s.setL k v).l = s.l.set k.val v k.isLt := rfl
@[simp] theorem State.setL_px (s : State) (k : RegNo) (v : Word14) : (s.setL k v).px = s.px := rfl
@[simp] theorem State.setL_bitRev (s : State) (k : RegNo) (v : Word14) : (s.setL k v).bitRev = s.bitRev := rfl
@[simp] theorem State.setL_regs (s : State) (k : RegNo) (v : Word14) : (s.setL k v).regs = s.regs := rfl
@[simp] theorem State.setL_pc (s : State) (k : RegNo) (v : Word14) : (s.setL k v).pc = s.pc := rfl
@[simp] theorem State.setL_dm (s : State) (k : RegNo) (v : Word14) : (s.setL k v).dm = s.dm := rfl
@[simp] theorem State.setL_pm (s : State) (k : RegNo) (v : Word14) : (s.setL k v).pm = s.pm := rfl
@[simp] theorem State.setL_pmWritten (s : State) (k : RegNo) (v : Word14) : (s.setL k v).pmWritten = s.pmWritten := rfl
@[simp] theorem State.setL_map (s : State) (k : RegNo) (v : Word14) : (s.setL k v).map = s.map := rfl
@[simp] theorem State.setL_dag1Draws (s : State) (k : RegNo) (v : Word14) : (s.setL k v).dag1Draws = s.dag1Draws := rfl
@[simp] theorem State.setL_dag2Draws (s : State) (k : RegNo) (v : Word14) : (s.setL k v).dag2Draws = s.dag2Draws := rfl

/-! ### State.setPx -/

@[simp] theorem State.setPx_i (s : State) (v : Word8) : (s.setPx v).i = s.i := rfl
@[simp] theorem State.setPx_m (s : State) (v : Word8) : (s.setPx v).m = s.m := rfl
@[simp] theorem State.setPx_l (s : State) (v : Word8) : (s.setPx v).l = s.l := rfl
@[simp] theorem State.setPx_px (s : State) (v : Word8) : (s.setPx v).px = v := rfl
@[simp] theorem State.setPx_bitRev (s : State) (v : Word8) : (s.setPx v).bitRev = s.bitRev := rfl
@[simp] theorem State.setPx_regs (s : State) (v : Word8) : (s.setPx v).regs = s.regs := rfl
@[simp] theorem State.setPx_pc (s : State) (v : Word8) : (s.setPx v).pc = s.pc := rfl
@[simp] theorem State.setPx_dm (s : State) (v : Word8) : (s.setPx v).dm = s.dm := rfl
@[simp] theorem State.setPx_pm (s : State) (v : Word8) : (s.setPx v).pm = s.pm := rfl
@[simp] theorem State.setPx_pmWritten (s : State) (v : Word8) : (s.setPx v).pmWritten = s.pmWritten := rfl
@[simp] theorem State.setPx_map (s : State) (v : Word8) : (s.setPx v).map = s.map := rfl
@[simp] theorem State.setPx_dag1Draws (s : State) (v : Word8) : (s.setPx v).dag1Draws = s.dag1Draws := rfl
@[simp] theorem State.setPx_dag2Draws (s : State) (v : Word8) : (s.setPx v).dag2Draws = s.dag2Draws := rfl

/-! ### State.setBitRev -/

@[simp] theorem State.setBitRev_i (s : State) (v : Bool) : (s.setBitRev v).i = s.i := rfl
@[simp] theorem State.setBitRev_m (s : State) (v : Bool) : (s.setBitRev v).m = s.m := rfl
@[simp] theorem State.setBitRev_l (s : State) (v : Bool) : (s.setBitRev v).l = s.l := rfl
@[simp] theorem State.setBitRev_px (s : State) (v : Bool) : (s.setBitRev v).px = s.px := rfl
@[simp] theorem State.setBitRev_bitRev (s : State) (v : Bool) : (s.setBitRev v).bitRev = v := rfl
@[simp] theorem State.setBitRev_regs (s : State) (v : Bool) : (s.setBitRev v).regs = s.regs := rfl
@[simp] theorem State.setBitRev_pc (s : State) (v : Bool) : (s.setBitRev v).pc = s.pc := rfl
@[simp] theorem State.setBitRev_dm (s : State) (v : Bool) : (s.setBitRev v).dm = s.dm := rfl
@[simp] theorem State.setBitRev_pm (s : State) (v : Bool) : (s.setBitRev v).pm = s.pm := rfl
@[simp] theorem State.setBitRev_pmWritten (s : State) (v : Bool) : (s.setBitRev v).pmWritten = s.pmWritten := rfl
@[simp] theorem State.setBitRev_map (s : State) (v : Bool) : (s.setBitRev v).map = s.map := rfl
@[simp] theorem State.setBitRev_dag1Draws (s : State) (v : Bool) : (s.setBitRev v).dag1Draws = s.dag1Draws := rfl
@[simp] theorem State.setBitRev_dag2Draws (s : State) (v : Bool) : (s.setBitRev v).dag2Draws = s.dag2Draws := rfl

/-! ### State.setRegs -/

@[simp] theorem State.setRegs_i (s : State) (r : DataRegs) : (s.setRegs r).i = s.i := rfl
@[simp] theorem State.setRegs_m (s : State) (r : DataRegs) : (s.setRegs r).m = s.m := rfl
@[simp] theorem State.setRegs_l (s : State) (r : DataRegs) : (s.setRegs r).l = s.l := rfl
@[simp] theorem State.setRegs_px (s : State) (r : DataRegs) : (s.setRegs r).px = s.px := rfl
@[simp] theorem State.setRegs_bitRev (s : State) (r : DataRegs) : (s.setRegs r).bitRev = s.bitRev := rfl
@[simp] theorem State.setRegs_regs (s : State) (r : DataRegs) : (s.setRegs r).regs = r := rfl
@[simp] theorem State.setRegs_pc (s : State) (r : DataRegs) : (s.setRegs r).pc = s.pc := rfl
@[simp] theorem State.setRegs_dm (s : State) (r : DataRegs) : (s.setRegs r).dm = s.dm := rfl
@[simp] theorem State.setRegs_pm (s : State) (r : DataRegs) : (s.setRegs r).pm = s.pm := rfl
@[simp] theorem State.setRegs_pmWritten (s : State) (r : DataRegs) : (s.setRegs r).pmWritten = s.pmWritten := rfl
@[simp] theorem State.setRegs_map (s : State) (r : DataRegs) : (s.setRegs r).map = s.map := rfl
@[simp] theorem State.setRegs_dag1Draws (s : State) (r : DataRegs) : (s.setRegs r).dag1Draws = s.dag1Draws := rfl
@[simp] theorem State.setRegs_dag2Draws (s : State) (r : DataRegs) : (s.setRegs r).dag2Draws = s.dag2Draws := rfl

/-! ### State.setPc -/

@[simp] theorem State.setPc_i (s : State) (v : Word14) : (s.setPc v).i = s.i := rfl
@[simp] theorem State.setPc_m (s : State) (v : Word14) : (s.setPc v).m = s.m := rfl
@[simp] theorem State.setPc_l (s : State) (v : Word14) : (s.setPc v).l = s.l := rfl
@[simp] theorem State.setPc_px (s : State) (v : Word14) : (s.setPc v).px = s.px := rfl
@[simp] theorem State.setPc_bitRev (s : State) (v : Word14) : (s.setPc v).bitRev = s.bitRev := rfl
@[simp] theorem State.setPc_regs (s : State) (v : Word14) : (s.setPc v).regs = s.regs := rfl
@[simp] theorem State.setPc_pc (s : State) (v : Word14) : (s.setPc v).pc = v := rfl
@[simp] theorem State.setPc_dm (s : State) (v : Word14) : (s.setPc v).dm = s.dm := rfl
@[simp] theorem State.setPc_pm (s : State) (v : Word14) : (s.setPc v).pm = s.pm := rfl
@[simp] theorem State.setPc_pmWritten (s : State) (v : Word14) : (s.setPc v).pmWritten = s.pmWritten := rfl
@[simp] theorem State.setPc_map (s : State) (v : Word14) : (s.setPc v).map = s.map := rfl
@[simp] theorem State.setPc_dag1Draws (s : State) (v : Word14) : (s.setPc v).dag1Draws = s.dag1Draws := rfl
@[simp] theorem State.setPc_dag2Draws (s : State) (v : Word14) : (s.setPc v).dag2Draws = s.dag2Draws := rfl

/-! ### State.putDm -/

@[simp] theorem State.putDm_i (s : State) (a : Word14) (v : Word16) : (s.putDm a v).i = s.i := rfl
@[simp] theorem State.putDm_m (s : State) (a : Word14) (v : Word16) : (s.putDm a v).m = s.m := rfl
@[simp] theorem State.putDm_l (s : State) (a : Word14) (v : Word16) : (s.putDm a v).l = s.l := rfl
@[simp] theorem State.putDm_px (s : State) (a : Word14) (v : Word16) : (s.putDm a v).px = s.px := rfl
@[simp] theorem State.putDm_bitRev (s : State) (a : Word14) (v : Word16) : (s.putDm a v).bitRev = s.bitRev := rfl
@[simp] theorem State.putDm_regs (s : State) (a : Word14) (v : Word16) : (s.putDm a v).regs = s.regs := rfl
@[simp] theorem State.putDm_pc (s : State) (a : Word14) (v : Word16) : (s.putDm a v).pc = s.pc := rfl
@[simp] theorem State.putDm_dm (s : State) (a : Word14) (v : Word16) : (s.putDm a v).dm = s.dm.store a.toNat v := rfl
@[simp] theorem State.putDm_pm (s : State) (a : Word14) (v : Word16) : (s.putDm a v).pm = s.pm := rfl
@[simp] theorem State.putDm_pmWritten (s : State) (a : Word14) (v : Word16) : (s.putDm a v).pmWritten = s.pmWritten := rfl
@[simp] theorem State.putDm_map (s : State) (a : Word14) (v : Word16) : (s.putDm a v).map = s.map := rfl
@[simp] theorem State.putDm_dag1Draws (s : State) (a : Word14) (v : Word16) : (s.putDm a v).dag1Draws = s.dag1Draws := rfl
@[simp] theorem State.putDm_dag2Draws (s : State) (a : Word14) (v : Word16) : (s.putDm a v).dag2Draws = s.dag2Draws := rfl

/-! ### State.putPm -/

@[simp] theorem State.putPm_i (s : State) (a : Word14) (v : Word24) : (s.putPm a v).i = s.i := rfl
@[simp] theorem State.putPm_m (s : State) (a : Word14) (v : Word24) : (s.putPm a v).m = s.m := rfl
@[simp] theorem State.putPm_l (s : State) (a : Word14) (v : Word24) : (s.putPm a v).l = s.l := rfl
@[simp] theorem State.putPm_px (s : State) (a : Word14) (v : Word24) : (s.putPm a v).px = s.px := rfl
@[simp] theorem State.putPm_bitRev (s : State) (a : Word14) (v : Word24) : (s.putPm a v).bitRev = s.bitRev := rfl
@[simp] theorem State.putPm_regs (s : State) (a : Word14) (v : Word24) : (s.putPm a v).regs = s.regs := rfl
@[simp] theorem State.putPm_pc (s : State) (a : Word14) (v : Word24) : (s.putPm a v).pc = s.pc := rfl
@[simp] theorem State.putPm_dm (s : State) (a : Word14) (v : Word24) : (s.putPm a v).dm = s.dm := rfl
@[simp] theorem State.putPm_pm (s : State) (a : Word14) (v : Word24) : (s.putPm a v).pm = s.pm.store a.toNat v := rfl
@[simp] theorem State.putPm_pmWritten (s : State) (a : Word14) (v : Word24) : (s.putPm a v).pmWritten = recordAddress s.pmWritten a.toNat := rfl
@[simp] theorem State.putPm_map (s : State) (a : Word14) (v : Word24) : (s.putPm a v).map = s.map := rfl
@[simp] theorem State.putPm_dag1Draws (s : State) (a : Word14) (v : Word24) : (s.putPm a v).dag1Draws = s.dag1Draws := rfl
@[simp] theorem State.putPm_dag2Draws (s : State) (a : Word14) (v : Word24) : (s.putPm a v).dag2Draws = s.dag2Draws := rfl

/-! ### State.setData -/

@[simp] theorem State.setData_i (s : State) (d : DataReg) (v : Word16) : (s.setData d v).i = s.i := rfl
@[simp] theorem State.setData_m (s : State) (d : DataReg) (v : Word16) : (s.setData d v).m = s.m := rfl
@[simp] theorem State.setData_l (s : State) (d : DataReg) (v : Word16) : (s.setData d v).l = s.l := rfl
@[simp] theorem State.setData_px (s : State) (d : DataReg) (v : Word16) : (s.setData d v).px = s.px := rfl
@[simp] theorem State.setData_bitRev (s : State) (d : DataReg) (v : Word16) : (s.setData d v).bitRev = s.bitRev := rfl
@[simp] theorem State.setData_regs (s : State) (d : DataReg) (v : Word16) : (s.setData d v).regs = s.regs.write d v := rfl
@[simp] theorem State.setData_pc (s : State) (d : DataReg) (v : Word16) : (s.setData d v).pc = s.pc := rfl
@[simp] theorem State.setData_dm (s : State) (d : DataReg) (v : Word16) : (s.setData d v).dm = s.dm := rfl
@[simp] theorem State.setData_pm (s : State) (d : DataReg) (v : Word16) : (s.setData d v).pm = s.pm := rfl
@[simp] theorem State.setData_pmWritten (s : State) (d : DataReg) (v : Word16) : (s.setData d v).pmWritten = s.pmWritten := rfl
@[simp] theorem State.setData_map (s : State) (d : DataReg) (v : Word16) : (s.setData d v).map = s.map := rfl
@[simp] theorem State.setData_dag1Draws (s : State) (d : DataReg) (v : Word16) : (s.setData d v).dag1Draws = s.dag1Draws := rfl
@[simp] theorem State.setData_dag2Draws (s : State) (d : DataReg) (v : Word16) : (s.setData d v).dag2Draws = s.dag2Draws := rfl

/-! ### State.placePm -/

@[simp] theorem State.placePm_i (s : State) (a : Word14) (v : Word24) : (s.placePm a v).i = s.i := rfl
@[simp] theorem State.placePm_m (s : State) (a : Word14) (v : Word24) : (s.placePm a v).m = s.m := rfl
@[simp] theorem State.placePm_l (s : State) (a : Word14) (v : Word24) : (s.placePm a v).l = s.l := rfl
@[simp] theorem State.placePm_px (s : State) (a : Word14) (v : Word24) : (s.placePm a v).px = s.px := rfl
@[simp] theorem State.placePm_bitRev (s : State) (a : Word14) (v : Word24) : (s.placePm a v).bitRev = s.bitRev := rfl
@[simp] theorem State.placePm_regs (s : State) (a : Word14) (v : Word24) : (s.placePm a v).regs = s.regs := rfl
@[simp] theorem State.placePm_pc (s : State) (a : Word14) (v : Word24) : (s.placePm a v).pc = s.pc := rfl
@[simp] theorem State.placePm_dm (s : State) (a : Word14) (v : Word24) : (s.placePm a v).dm = s.dm := rfl
@[simp] theorem State.placePm_pm (s : State) (a : Word14) (v : Word24) : (s.placePm a v).pm = s.pm.store a.toNat v := rfl
@[simp] theorem State.placePm_pmWritten (s : State) (a : Word14) (v : Word24) : (s.placePm a v).pmWritten = s.pmWritten.filter (fun b => decide (b ≠ a.toNat)) := rfl
@[simp] theorem State.placePm_map (s : State) (a : Word14) (v : Word24) : (s.placePm a v).map = s.map := rfl
@[simp] theorem State.placePm_dag1Draws (s : State) (a : Word14) (v : Word24) : (s.placePm a v).dag1Draws = s.dag1Draws := rfl
@[simp] theorem State.placePm_dag2Draws (s : State) (a : Word14) (v : Word24) : (s.placePm a v).dag2Draws = s.dag2Draws := rfl

/-! ### State.countDraw -/

@[simp] theorem State.countDraw_i (s : State) (d : Dag) : (s.countDraw d).i = s.i := by cases d <;> rfl
@[simp] theorem State.countDraw_m (s : State) (d : Dag) : (s.countDraw d).m = s.m := by cases d <;> rfl
@[simp] theorem State.countDraw_l (s : State) (d : Dag) : (s.countDraw d).l = s.l := by cases d <;> rfl
@[simp] theorem State.countDraw_px (s : State) (d : Dag) : (s.countDraw d).px = s.px := by cases d <;> rfl
@[simp] theorem State.countDraw_bitRev (s : State) (d : Dag) : (s.countDraw d).bitRev = s.bitRev := by cases d <;> rfl
@[simp] theorem State.countDraw_regs (s : State) (d : Dag) : (s.countDraw d).regs = s.regs := by cases d <;> rfl
@[simp] theorem State.countDraw_pc (s : State) (d : Dag) : (s.countDraw d).pc = s.pc := by cases d <;> rfl
@[simp] theorem State.countDraw_dm (s : State) (d : Dag) : (s.countDraw d).dm = s.dm := by cases d <;> rfl
@[simp] theorem State.countDraw_pm (s : State) (d : Dag) : (s.countDraw d).pm = s.pm := by cases d <;> rfl
@[simp] theorem State.countDraw_pmWritten (s : State) (d : Dag) : (s.countDraw d).pmWritten = s.pmWritten := by cases d <;> rfl
@[simp] theorem State.countDraw_map (s : State) (d : Dag) : (s.countDraw d).map = s.map := by cases d <;> rfl

@[simp] theorem State.countDraw_draws (s : State) (d e : Dag) :
    (s.countDraw d).draws e = if e = d then s.draws e + 1 else s.draws e := by
  cases d <;> cases e <;> rfl

/-! ### Register reads after register writes -/

@[simp] theorem State.setDagReg_dagReg_self (s : State) (r : DagReg) (v : Word14) : (s.setDagReg r v).dagReg r = v := by
  cases r <;> simp [State.setDagReg, State.dagReg]

theorem State.setDagReg_dagReg_of_ne (s : State) (r q : DagReg) (v : Word14) (h : q ≠ r) :
    (s.setDagReg r v).dagReg q = s.dagReg q := by
  have ne : ∀ k n : RegNo, k ≠ n → ∀ x : Vector Word14 8, (x.set n.val v n.isLt)[k] = x[k] := by
    intro k n hkn x
    exact Vector.getElem_set_ne _ _ (fun e => hkn (Fin.ext e.symm))
  cases r <;> cases q <;> simp only [State.setDagReg, State.dagReg, State.setI, State.setM, State.setL] <;>
    exact ne _ _ (fun e => h (by rw [e])) _

theorem DataRegs.read_write_self (r : DataRegs) (d : DataReg) (v : Word16) (h : narrow d = false) :
    (r.write d v).read d = v := by
  cases d <;> first | rfl | cases h

/-- A narrow data register keeps the low 8 bits and reads them sign-extended (notes/assumptions/2.md). -/
theorem DataRegs.read_write_narrow (r : DataRegs) (d : DataReg) (v : Word16) (h : narrow d = true) :
    (r.write d v).read d = sextNarrow (low8 v) := by
  cases d <;> first | rfl | cases h

theorem DataRegs.read_write_of_ne (r : DataRegs) (d e : DataReg) (v : Word16) (h : e ≠ d) :
    (r.write d v).read e = r.read e := by
  cases d <;> cases e <;> first | rfl | exact absurd rfl h

end Sys2Proof.Machine
end

