-- ==== Sys2Proof/Laws/Ops.lean ====
section
/-! SUPPORT. For each shared operation, one lemma that says once everything it can do. -/

namespace Sys2Proof.Machine

variable {α β : Type}

/-! ### Composition -/

@[simp] theorem thenDo_next (a : α) (k : α → Result β) : thenDo (.next a) k = k a := rfl

@[simp] theorem thenDo_fault (f : Fault) (k : α → Result β) : thenDo (.fault f) k = .fault f := rfl

@[simp] theorem thenDo_refused (e : Refusal) (k : α → Result β) : thenDo (.refused e) k = .refused e := rfl

/-- A composition answers next exactly when both parts do. -/
theorem thenDo_eq_next (r : Result α) (k : α → Result β) (b : β) :
    thenDo r k = .next b ↔ ∃ a, r = .next a ∧ k a = .next b := by
  cases r <;> simp [thenDo]

/-! ### Accesses and the end of a statement -/

theorem readDm_eq_next (a : Word14) (s : State) (v : Word16) :
    readDm a s = .next v ↔ s.map.dmMapped a = true ∧ v = s.dmWord a := by
  unfold readDm
  split <;> simp_all [eq_comm (a := v)]

theorem writeDm_eq_next (a : Word14) (v : Word16) (s t : State) :
    writeDm a v s = .next t ↔ s.map.dmMapped a = true ∧ t = s.putDm a v := by
  unfold writeDm
  split <;> simp_all [eq_comm (a := t)]

theorem readPm_eq_next (a : Word14) (s : State) (v : Word24) :
    readPm a s = .next v ↔ s.map.pmMapped a = true ∧ v = s.pmWord a := by
  unfold readPm
  split <;> simp_all [eq_comm (a := v)]

theorem writePm_eq_next (a : Word14) (v : Word24) (s t : State) :
    writePm a v s = .next t ↔ s.map.pmMapped a = true ∧ t = s.putPm a v := by
  unfold writePm
  split <;> simp_all [eq_comm (a := t)]

theorem finish_eq_next (s t : State) :
    finish s = .next t ↔ s.pc ≠ topAddress ∧ t = s.setPc (s.pc + 1) := by
  unfold finish
  split <;> simp_all [eq_comm (a := t)]

theorem dmAddress_eq_next (i j : RegNo) (s : State) (a : Word14) :
    dmAddress i j s = .next a ↔ dmPairOk i j = true ∧ a = outAddr i s := by
  unfold dmAddress
  split <;> simp_all [eq_comm (a := a)]

theorem pmAddress_eq_next (i j : RegNo) (s : State) (a : Word14) :
    pmAddress i j s = .next a ↔ pmPairOk i j = true ∧ a = s.i[i] := by
  unfold pmAddress
  split
  · simp_all [eq_comm (a := a)]
  · split <;> simp_all

/-- A fetch answers a word exactly when it is mapped, held, and no statement wrote it (R33, R44). -/
theorem fetch_eq_next (s : State) (w : Word24) :
    fetch s = .next w ↔
      s.pc.toNat ∉ s.pmWritten ∧ s.map.pmMapped s.pc = true ∧ s.pm.lookup s.pc.toNat = some w := by
  unfold fetch
  split
  · simp_all
  · split
    · cases h : s.pm.lookup s.pc.toNat <;> simp_all
    · simp_all

/-- A word stands for an instruction exactly when it decodes to one whose data registers are all in DREG. -/
theorem decodedWith_eq_next (p : Parameters) (w : Word24) (f : Instr) :
    decodedWith p w = .next f ↔ p.encoding.decode w = .ok f ∧ f.admittedBy p.dreg = true := by
  unfold decodedWith
  cases p.encoding.decode w with
  | error e => simp
  | ok g => by_cases h : g.admittedBy p.dreg = true <;> simp [h] <;> rintro rfl <;> simp_all

/-- Running an instruction answers next exactly when its meaning does and its result is one the parameters let stand. -/
theorem executedWith_eq_next (p : Parameters) (f : Instr) (s t : State) :
    executedWith p f s = .next t ↔
      exec f s = .next t ∧ (p.unspecified = .fault → unspecifiedModify f s = false) := by
  unfold executedWith
  split
  · simp_all [thenDo_eq_next]
  · simp_all

/-- What a step under any parameters can do. -/
theorem stepWith_eq_next (p : Parameters) (s t : State) :
    stepWith p s = .next t ↔ ∃ w f, fetch s = .next w ∧ p.encoding.decode w = .ok f ∧
      f.admittedBy p.dreg = true ∧ exec f s = .next t ∧ (p.unspecified = .fault → unspecifiedModify f s = false) := by
  unfold stepWith
  simp only [thenDo_eq_next, decodedWith_eq_next, executedWith_eq_next, and_assoc, exists_and_left]

/-- Where the treatment is a free value, running an instruction is its meaning. -/
theorem executedWith_of_freeValue (p : Parameters) (f : Instr) (s : State) (h : p.unspecified = .freeValue) :
    executedWith p f s = exec f s := by
  simp [executedWith, h]

/-- Every data register is in the DREG that `step` takes. -/
theorem admittedBy_named (f : Instr) : f.admittedBy Parameters.named.dreg = true := by
  have h : ∀ d : DataReg, d ∈ Parameters.named.dreg := by intro d; cases d <;> decide
  simp [Instr.admittedBy, h]

/-- A step answers next exactly when the fetched word decodes and the instruction answers next. -/
theorem step_eq_next (s t : State) :
    step s = .next t ↔ ∃ w i, fetch s = .next w ∧ decode w = .ok i ∧ exec i s = .next t := by
  simp only [step, stepWith_eq_next, admittedBy_named, true_and]
  constructor
  · rintro ⟨w, f, hw, hd, hx, -⟩; exact ⟨w, f, hw, hd, hx⟩
  · rintro ⟨w, f, hw, hd, hx⟩; exact ⟨w, f, hw, hd, hx, fun h => by cases h⟩

/-! ### The post-modify (R70, R78) -/

/-- Where the next address is stated, it is what the I register receives. -/
theorem postModify_of_some (i j : RegNo) (s : State) (a : Word14) (h : nextAddr s.i[i] s.m[j] s.l[i] = some a) :
    postModify i j s = s.setI i a := by
  simp only [postModify, h]

/-- Where it is not, the I register receives the DAG's next free value. -/
theorem postModify_of_none (i j : RegNo) (s : State) (h : nextAddr s.i[i] s.m[j] s.l[i] = none) :
    postModify i j s =
      (s.setI i (Config.freeIndex (Dag.of i) (s.draws (Dag.of i)))).countDraw (Dag.of i) := by
  simp only [postModify, h]

/-- A post-modify is an update of I[i], and perhaps one more free value drawn. -/
theorem postModify_cases (i j : RegNo) (s : State) :
    ∃ a, postModify i j s = s.setI i a ∨ postModify i j s = (s.setI i a).countDraw (Dag.of i) := by
  unfold postModify
  split
  · exact ⟨_, .inl rfl⟩
  · exact ⟨_, .inr rfl⟩

@[simp] theorem postModify_m (i j : RegNo) (s : State) : (postModify i j s).m = s.m := by
  unfold postModify; split <;> simp

@[simp] theorem postModify_l (i j : RegNo) (s : State) : (postModify i j s).l = s.l := by
  unfold postModify; split <;> simp

@[simp] theorem postModify_px (i j : RegNo) (s : State) : (postModify i j s).px = s.px := by
  unfold postModify; split <;> simp

@[simp] theorem postModify_bitRev (i j : RegNo) (s : State) : (postModify i j s).bitRev = s.bitRev := by
  unfold postModify; split <;> simp

@[simp] theorem postModify_regs (i j : RegNo) (s : State) : (postModify i j s).regs = s.regs := by
  unfold postModify; split <;> simp

@[simp] theorem postModify_pc (i j : RegNo) (s : State) : (postModify i j s).pc = s.pc := by
  unfold postModify; split <;> simp

@[simp] theorem postModify_dm (i j : RegNo) (s : State) : (postModify i j s).dm = s.dm := by
  unfold postModify; split <;> simp

@[simp] theorem postModify_pm (i j : RegNo) (s : State) : (postModify i j s).pm = s.pm := by
  unfold postModify; split <;> simp

@[simp] theorem postModify_pmWritten (i j : RegNo) (s : State) : (postModify i j s).pmWritten = s.pmWritten := by
  unfold postModify; split <;> simp

@[simp] theorem postModify_map (i j : RegNo) (s : State) : (postModify i j s).map = s.map := by
  unfold postModify; split <;> simp

/-! ### A register loaded from the bus leaves everything but registers alone -/

@[simp] theorem State.setDagReg_pc (s : State) (r : DagReg) (v : Word14) : (s.setDagReg r v).pc = s.pc := by
  cases r <;> rfl

@[simp] theorem State.busWrite_pc (s : State) (r : Reg) (v : Word16) : (s.busWrite r v).pc = s.pc := by
  cases r with
  | dag q => exact s.setDagReg_pc q (low14 v)
  | data d => rfl
  | px => rfl

/-! ### What each meaning answers -/

theorem execLdi_eq_next (r : DagReg) (c : Word14) (s t : State) :
    execLdi r c s = .next t ↔ s.pc ≠ topAddress ∧ t = (s.setDagReg r c).setPc (s.pc + 1) := by
  simp [execLdi, finish_eq_next]

theorem execMov_eq_next (dst src : Reg) (s t : State) :
    execMov dst src s = .next t ↔
      s.pc ≠ topAddress ∧ t = (s.busWrite dst (s.busRead src)).setPc (s.pc + 1) := by
  simp [execMov, finish_eq_next]

theorem execDmdR_eq_next (r : Reg) (a : Word14) (s t : State) :
    execDmdR r a s = .next t ↔ s.map.dmMapped a = true ∧ s.pc ≠ topAddress ∧
      t = (s.busWrite r (s.dmWord a)).setPc (s.pc + 1) := by
  simp [execDmdR, thenDo_eq_next, readDm_eq_next, finish_eq_next, and_assoc]

theorem execDmdW_eq_next (r : Reg) (a : Word14) (s t : State) :
    execDmdW r a s = .next t ↔ s.map.dmMapped a = true ∧ s.pc ≠ topAddress ∧
      t = (s.putDm a (s.busRead r)).setPc (s.pc + 1) := by
  simp [execDmdW, thenDo_eq_next, writeDm_eq_next, finish_eq_next, and_assoc]

theorem execDmiR_eq_next (d : DataReg) (i j : RegNo) (s t : State) :
    execDmiR d i j s = .next t ↔ dmPairOk i j = true ∧ s.map.dmMapped (outAddr i s) = true ∧ s.pc ≠ topAddress ∧
      t = (postModify i j (s.setData d (s.dmWord (outAddr i s)))).setPc (s.pc + 1) := by
  simp [execDmiR, thenDo_eq_next, dmAddress_eq_next, readDm_eq_next, finish_eq_next, and_assoc]

theorem execDmiW_eq_next (d : DataReg) (i j : RegNo) (s t : State) :
    execDmiW d i j s = .next t ↔ dmPairOk i j = true ∧ s.map.dmMapped (outAddr i s) = true ∧ s.pc ≠ topAddress ∧
      t = (postModify i j (s.putDm (outAddr i s) (s.data d))).setPc (s.pc + 1) := by
  simp [execDmiW, thenDo_eq_next, dmAddress_eq_next, writeDm_eq_next, finish_eq_next, and_assoc]

theorem execEnaBr_eq_next (s t : State) :
    execEnaBr s = .next t ↔ s.pc ≠ topAddress ∧ t = (s.setBitRev true).setPc (s.pc + 1) := by
  simp [execEnaBr, finish_eq_next]

theorem execDisBr_eq_next (s t : State) :
    execDisBr s = .next t ↔ s.pc ≠ topAddress ∧ t = (s.setBitRev false).setPc (s.pc + 1) := by
  simp [execDisBr, finish_eq_next]

theorem execPmiR_eq_next (d : DataReg) (i j : RegNo) (s t : State) :
    execPmiR d i j s = .next t ↔ pmPairOk i j = true ∧ s.map.pmMapped s.i[i] = true ∧ s.pc ≠ topAddress ∧
      t = (postModify i j ((s.setData d (pmUpper (s.pmWord s.i[i]))).setPx
        (pmLower (s.pmWord s.i[i])))).setPc (s.pc + 1) := by
  simp [execPmiR, thenDo_eq_next, pmAddress_eq_next, readPm_eq_next, finish_eq_next, and_assoc]

theorem execPmiW_eq_next (d : DataReg) (i j : RegNo) (s t : State) :
    execPmiW d i j s = .next t ↔ pmPairOk i j = true ∧ s.map.pmMapped s.i[i] = true ∧ s.pc ≠ topAddress ∧
      t = (postModify i j (s.putPm s.i[i] (pmJoin (s.data d) s.px))).setPc (s.pc + 1) := by
  simp [execPmiW, thenDo_eq_next, pmAddress_eq_next, writePm_eq_next, finish_eq_next, and_assoc]

end Sys2Proof.Machine
end

