-- ==== Sys2Proof/Laws/PerInstr.lean ====
section
/-! SUPPORT. The statement families made one instruction at a time. -/

namespace Sys2Proof.Laws

/-- The word the encoder writes for `i` is of `i`'s own row of R65. -/
def EncodedRow.Statement (i : Instr) : Prop :=
  formatOf (encode i) = some i.format

theorem EncodedRow.ldi (r : DagReg) (c : Word14) : EncodedRow.Statement (.ldi r c) :=
  formatOf_ldi (directFields r.code c)

theorem EncodedRow.dmdR (r : Reg) (a : Word14) : EncodedRow.Statement (.dmdR r a) :=
  formatOf_dmdR (directFields r.code a)

theorem EncodedRow.dmdW (r : Reg) (a : Word14) : EncodedRow.Statement (.dmdW r a) :=
  formatOf_dmdW (directFields r.code a)

theorem EncodedRow.dmiR (d : DataReg) (i j : RegNo) : EncodedRow.Statement (.dmiR d i j) := by
  show formatOf (3#3 ++ (Dag.of i).selectBit ++ 0x000#12 ++ indirectFields d i j) = some .dmiR
  cases Dag.of i with
  | dag1 => exact formatOf_dmiR1 (indirectFields d i j)
  | dag2 => exact formatOf_dmiR2 (indirectFields d i j)

theorem EncodedRow.dmiW (d : DataReg) (i j : RegNo) : EncodedRow.Statement (.dmiW d i j) := by
  show formatOf (3#3 ++ (Dag.of i).selectBit ++ 0x800#12 ++ indirectFields d i j) = some .dmiW
  cases Dag.of i with
  | dag1 => exact formatOf_dmiW1 (indirectFields d i j)
  | dag2 => exact formatOf_dmiW2 (indirectFields d i j)

theorem EncodedRow.mov (dst src : Reg) : EncodedRow.Statement (.mov dst src) :=
  formatOf_mov (moveFields dst.code src.code)

theorem EncodedRow.enaBr : EncodedRow.Statement .enaBr := by
  show formatOf (encode .enaBr) = some .enaBr
  decide

theorem EncodedRow.disBr : EncodedRow.Statement .disBr := by
  show formatOf (encode .disBr) = some .disBr
  decide

theorem EncodedRow.pmiR (d : DataReg) (i j : RegNo) : EncodedRow.Statement (.pmiR d i j) :=
  formatOf_pmiR (indirectFields d i j)

theorem EncodedRow.pmiW (d : DataReg) (i j : RegNo) : EncodedRow.Statement (.pmiW d i j) :=
  formatOf_pmiW (indirectFields d i j)

end Sys2Proof.Laws
end

