-- ==== Sys2Proof/Tests/Slice0.lean ====
section
/-! SUPPORT. Tests on small states, with expected results from the spec's own examples and vectors
(spec/95_test_vectors.md V<n>, T<n>; spec/30_encoding.md R66), and a witness for the hypotheses of every statement. -/

open Sys2Proof Sys2Proof.Machine

namespace Sys2Proof.Tests

/-- The state a result holds satisfies `p`. -/
def nextHolds (p : State → Bool) : Result State → Bool
  | .next s => p s
  | _ => false

/-- Which stop a result is. -/
def stopOf {α : Type} : Result α → Option (Fault ⊕ Refusal)
  | .next _ => none
  | .fault f => some (.inl f)
  | .refused e => some (.inr e)

/-- The state after reset with one address pair set up: I[i], M[j], L[i]. -/
def pair (i j : RegNo) (a m l : Word14) : State :=
  ((State.reset.setI i a).setM j m).setL i l

/-- Only the lower half of each memory is mapped. -/
def halfMapped : State :=
  { State.reset with map := { dm := [⟨0, 0x1FFF⟩], pm := [⟨0, 0x1FFF⟩] } }

/-! ### Well-formedness: each check refuses an ill-formed term (R53) -/

theorem test_wf_refuses_cross_pair_dm : Instr.wf (.dmiR .ax0 0 4) = false := by decide

theorem test_wf_refuses_cross_pair_dm_store : Instr.wf (.dmiW .ax0 7 3) = false := by decide

theorem test_wf_refuses_dag1_pm : Instr.wf (.pmiR .ax0 0 0) = false := by decide

theorem test_wf_refuses_cross_pair_pm : Instr.wf (.pmiW .ax0 4 0) = false := by decide

theorem test_admittedBy_refuses_ax1 : Instr.admittedBy [.ax0, .mx0] (.mov .px (.data .ax1)) = false := by decide

/-! ### Decoding: words from R66 and T4 to T9 -/

theorem test_decode_ldi : decode 0x378003 = .ok (.ldi (.i 3) 0x3800) := by rfl

theorem test_decode_ldi_dag2 : decode 0x3BFFFB = .ok (.ldi (.l 7) 0x3FFF) := by rfl

theorem test_decode_dmdR : decode 0x8C1007 = .ok (.dmdR .px 0x0100) := by rfl

theorem test_decode_dmdW : decode 0x981208 = .ok (.dmdW (.dag (.l 4)) 0x0120) := by rfl

theorem test_decode_dmiR : decode 0x60000E = .ok (.dmiR .ax0 3 2) := by rfl

theorem test_decode_dmiR_dag2 : decode 0x700000 = .ok (.dmiR .ax0 4 4) := by rfl

theorem test_decode_dmiW : decode 0x680005 = .ok (.dmiW .ax0 1 1) := by rfl

theorem test_decode_dmiW_dag2 : decode 0x780006 = .ok (.dmiW .ax0 5 6) := by rfl

theorem test_decode_pmiR : decode 0x50002D = .ok (.pmiR .mx0 7 5) := by rfl

theorem test_decode_pmiW : decode 0x58000A = .ok (.pmiW .ax0 6 6) := by rfl

theorem test_decode_mov : decode 0x0D0922 = .ok (.mov (.dag (.i 6)) (.dag (.i 2))) := by rfl

theorem test_decode_mov_px : decode 0x0D0C70 = .ok (.mov .px (.data .ax0)) := by rfl

theorem test_decode_enaBr : decode 0x0C00C0 = .ok .enaBr := by rfl

theorem test_decode_disBr : decode 0x0C0080 = .ok .disBr := by rfl

/-- `AX0=5;` has no word of LDI's row (T4, R65). -/
theorem test_decode_refuses_ldi_data_register : decode 0x300050 = .error .notDagReg := by rfl

theorem test_decode_refuses_mstat : decode 0x8C0001 = .error .namesMstat := by rfl

theorem test_decode_refuses_imask : decode 0x0D0C30 = .error .namesOtherControl := by rfl

theorem test_decode_refuses_unused_code : decode 0x34000C = .error .unusedCode := by rfl

theorem test_decode_refuses_no_format : decode 0x000000 = .error .noFormat := by rfl

theorem test_encode_examples :
    encode (.ldi (.m 0) 0x3FFF) = 0x37FFF4 ∧ encode (.dmdW (.data .ax0) 0x3801) = 0x938010 ∧
      encode (.mov (.dag (.m 3)) .px) = 0x0D0777 := by decide

/-! ### Address generation: T2 and T3 -/

/-- The specified rows of T2. -/
theorem test_nextAddr_vectors :
    ([ (0x3800, 0x0000, 0, 0x3800), (0x0005, 0x0001, 0, 0x0006), (0x0005, 0x3FFF, 0, 0x0004),
       (0x1000, 0x1FFF, 0, 0x2FFF), (0x2000, 0x2000, 0, 0x0000), (0x3FFF, 0x0001, 0, 0x0000),
       (0x0000, 0x3FFF, 0, 0x3FFF), (0x0005, 0x0001, 3, 0x0006), (0x0006, 0x0001, 3, 0x0004),
       (0x0004, 0x3FFF, 3, 0x0006), (0x0006, 0x0002, 3, 0x0005), (0x0004, 0x3FFE, 3, 0x0005),
       (0x0009, 0x0003, 5, 0x000C), (0x000C, 0x0003, 5, 0x000A), (0x000B, 0x0003, 5, 0x0009),
       (0x000C, 0x3FFC, 5, 0x0008), (0x000F, 0x0001, 8, 0x0008), (0x0016, 0x0002, 7, 0x0011),
       (0x0003, 0x0001, 2, 0x0002), (0x0064, 0x0000, 1, 0x0064), (0x387F, 0x0001, 128, 0x3800),
       (0x2000, 0x0001, 8193, 0x0000), (0x0000, 0x3FFF, 8193, 0x2000) ] :
      List (Word14 × Word14 × Word14 × Word14)).all
      (fun r => decide (nextAddr r.1 r.2.1 r.2.2.1 = some r.2.2.2)) = true := by decide

/-- The rows of T2 that the source leaves unspecified. -/
theorem test_nextAddr_unspecified :
    ([ (0x0005, 0x0003, 3), (0x0005, 0x3FFD, 3), (0x0010, 0x0007, 7), (0x0064, 0x0001, 1), (0x0007, 0x0001, 3) ] :
      List (Word14 × Word14 × Word14)).all (fun r => decide (nextAddr r.1 r.2.1 r.2.2 = none)) = true := by decide

theorem test_bitrev14_vectors :
    ([ (0x0001, 0x2000), (0x0003, 0x3000), (0x0080, 0x0040), (0x00C0, 0x00C0), (0x1400, 0x000A), (0x3800, 0x0007),
       (0x1234, 0x0B12), (0x1555, 0x2AAA), (0x0810, 0x0204) ] : List (Word14 × Word14)).all
      (fun r => decide (bitrev14 r.1 = r.2)) = true := by decide

/-! ### One step of each instruction: T1, T4 to T9 -/

/-- T4: `I3=0x3800;`. -/
theorem test_ldi : nextHolds (fun t => decide (t.i[3] = 0x3800 ∧ t.pc = 1)) (exec (.ldi (.i 3) 0x3800) State.reset) =
    true := by decide

/-- T5: DM[0x0100] = 0xF800, `I3=DM(0x0100);`. -/
theorem test_dmdR_index : nextHolds (fun t => decide (t.i[3] = 0x3800))
    (exec (.dmdR (.dag (.i 3)) 0x0100) (State.reset.putDm 0x0100 0xF800)) = true := by decide

/-- T5: DM[0x0100] = 0x12AB, `PX=DM(0x0100);`. -/
theorem test_dmdR_px : nextHolds (fun t => decide (t.px = 0xAB))
    (exec (.dmdR .px 0x0100) (State.reset.putDm 0x0100 0x12AB)) = true := by decide

/-- T5: M0 = 0x3FFF, `DM(0x0120)=M0;`. -/
theorem test_dmdW_modify : nextHolds (fun t => decide (t.dm = [(0x0120, 0xFFFF)]))
    (exec (.dmdW (.dag (.m 0)) 0x0120) (State.reset.setM 0 0x3FFF)) = true := by decide

/-- T5: I0 = 0x3FFF, `DM(0x0120)=I0;`. -/
theorem test_dmdW_index : nextHolds (fun t => decide (t.dm = [(0x0120, 0x3FFF)]))
    (exec (.dmdW (.dag (.i 0)) 0x0120) (State.reset.setI 0 0x3FFF)) = true := by decide

/-- T6: I0 = 6, M0 = 1, L0 = 3, DM[6] = 0x2222, `MX0=DM(I0,M0);`. -/
theorem test_dmiR_circular : nextHolds (fun t => decide (t.data .mx0 = 0x2222 ∧ t.i[0] = 4))
    (exec (.dmiR .mx0 0 0) ((pair 0 0 6 1 3).putDm 6 0x2222)) = true := by decide

/-- T6: BIT_REV = 1, I0 = 0x0010, M0 = 0x0800, L0 = 0, DM[0x0200] = 0x00AA, `AX0=DM(I0,M0);`. -/
theorem test_dmiR_reversed : nextHolds (fun t => decide (t.data .ax0 = 0x00AA ∧ t.i[0] = 0x0810))
    (exec (.dmiR .ax0 0 0) (((pair 0 0 0x0010 0x0800 0).setBitRev true).putDm 0x0200 0x00AA)) = true := by decide

/-- T6: I5 = 4, M6 = 0x3FFF, L5 = 3, AX0 = 7, `DM(I5,M6)=AX0;`. -/
theorem test_dmiW_backwards : nextHolds (fun t => decide (t.dm = [(4, 7)] ∧ t.i[5] = 6))
    (exec (.dmiW .ax0 5 6) ((pair 5 6 4 0x3FFF 3).setData .ax0 7)) = true := by decide

/-- T6: BIT_REV = 1, I1 = 0x0001, M1 = 0, L1 = 0, AX0 = 9, `DM(I1,M1)=AX0;`. -/
theorem test_dmiW_reversed : nextHolds (fun t => decide (t.dm = [(0x2000, 9)] ∧ t.i[1] = 1))
    (exec (.dmiW .ax0 1 1) (((pair 1 1 1 0 0).setBitRev true).setData .ax0 9)) = true := by decide

/-- T6 gives fault (U3) here; the model runs on with a free I0 (notes/assumptions/12.md): AX0 is still loaded. -/
theorem test_dmiR_unspecified_runs : nextHolds (fun t => decide (t.data .ax0 = 0x1111 ∧ t.dag1Draws = 1))
    (exec (.dmiR .ax0 0 0) ((pair 0 0 5 3 3).putDm 5 0x1111)) = true := by decide

/-- T8: M3 = 0x3FFE, `AX0=M3;`. -/
theorem test_mov_modify : nextHolds (fun t => decide (t.data .ax0 = 0xFFFE))
    (exec (.mov (.data .ax0) (.dag (.m 3))) (State.reset.setM 3 0x3FFE)) = true := by decide

/-- T7: AX0 = 0xFF80, `PX=AX0;`. -/
theorem test_mov_px : nextHolds (fun t => decide (t.px = 0x80))
    (exec (.mov .px (.data .ax0)) (State.reset.setData .ax0 0xFF80)) = true := by decide

/-- T9: `ENA BIT_REV;`. -/
theorem test_enaBr : nextHolds (fun t => t.bitRev) (exec .enaBr State.reset) = true := by decide

/-- T9: `DIS BIT_REV;`. -/
theorem test_disBr : nextHolds (fun t => !t.bitRev) (exec .disBr (State.reset.setBitRev true)) = true := by decide

/-- T7: I4 = 0x0200, M4 = 1, L4 = 0, PM[0x0200] = 0xABCDEF, PX = 0x11, `AX0=PM(I4,M4);`. -/
theorem test_pmiR : nextHolds (fun t => decide (t.data .ax0 = 0xABCD ∧ t.px = 0xEF ∧ t.i[4] = 0x0201))
    (exec (.pmiR .ax0 4 4) (((pair 4 4 0x0200 1 0).placePm 0x0200 0xABCDEF).setPx 0x11)) = true := by decide

/-- T7: BIT_REV = 1, I4 = 1, M4 = 0, L4 = 0, PM[1] = 0x010203, `AX0=PM(I4,M4);`. -/
theorem test_pmiR_never_reversed : nextHolds (fun t => decide (t.data .ax0 = 0x0102 ∧ t.px = 0x03))
    (exec (.pmiR .ax0 4 4) (((pair 4 4 1 0 0).placePm 1 0x010203).setBitRev true)) = true := by decide

/-- T7: AX0 = 0x1234, PX = 0x56, I4 = 0x0300, M4 = 0, L4 = 0, `PM(I4,M4)=AX0;`. -/
theorem test_pmiW : nextHolds (fun t => decide (t.pm = [(0x0300, 0x123456)] ∧ t.pmWritten = [0x0300] ∧ t.px = 0x56))
    (exec (.pmiW .ax0 4 4) (((pair 4 4 0x0300 0 0).setData .ax0 0x1234).setPx 0x56)) = true := by decide

/-- T7: I6 = 9, M6 = 3, L6 = 5, AX0 = 0xFFFF, PX = 0, `PM(I6,M6)=AX0;`. -/
theorem test_pmiW_circular : nextHolds (fun t => decide (t.pm = [(9, 0xFFFF00)] ∧ t.i[6] = 12))
    (exec (.pmiW .ax0 6 6) ((pair 6 6 9 3 5).setData .ax0 0xFFFF)) = true := by decide

/-- T1 has no narrow register; the family's SE keeps 8 bits (notes/assumptions/2.md). -/
theorem test_narrow_register : (State.reset.setData .se 0x1280).data .se = 0xFF80 := by decide

/-! ### Stops -/

/-- T5: DM_MAPPED false, `AX0=DM(a);` has no step (R33). -/
theorem test_unmapped : stopOf (exec (.dmdR (.data .ax0) 0x2000) halfMapped) = some (.inl (.dmUnmapped 0x2000)) := by
  decide

/-- T7: `AX0=PM(I0,M0);` is refused (R53). -/
theorem test_pm_needs_dag2 : stopOf (exec (.pmiR .ax0 0 0) State.reset) = some (.inr .pmNeedsDag2) := by decide

/-- R25: no statement completes at the top address. -/
theorem test_top : stopOf (exec .enaBr (State.reset.setPc 0x3FFF)) = some (.inr .pcPastTop) := by decide

/-- Nothing is placed in program memory at reset. -/
theorem test_fetch_unwritten : stopOf (step State.reset) = some (.inl (.fetchUnwritten 0)) := by decide

/-- R44: the word a statement wrote is not fetched. -/
theorem test_fetch_written : stopOf (step (State.reset.putPm 0 0x0C00C0)) = some (.inr (.writtenWordFetched 0)) := by
  decide

/-! ### Text: R50 to R58, T4 to T7 -/

/-- The symbols of R99's program, with the array at 0x0100. -/
def symbols : SymbolTable := [⟨"coefficients", 128, true, 0x0100⟩]

set_option maxRecDepth 8000 in
/-- R99's program. -/
theorem test_assemble_program :
    assemble symbols "L0=%coefficients; I0=^coefficients; M0=-1; MX0 = DM(I0,M0);" =
      .ok [.ldi (.l 0) 128, .ldi (.i 0) 0x0100, .ldi (.m 0) 0x3FFF, .dmiR .mx0 0 0] := by decide

set_option maxRecDepth 8000 in
theorem test_assemble_direct :
    assemble symbols "MX0=DM(coefficients); DM(0x0120)=M0; PM(I4,M4) = AX0; PX = AX0; ENA BIT_REV;" =
      .ok [.dmdR (.data .mx0) 0x0100, .dmdW (.dag (.m 0)) 0x0120, .pmiW .ax0 4 4, .mov .px (.data .ax0), .enaBr] := by
  decide

set_option maxRecDepth 8000 in
/-- The refusals of T4, T6 and T7. -/
theorem test_assemble_refusals :
    assemble [] "I0=16384;" = .error .constantOutOfRange ∧ assemble [] "M0=-8193;" = .error .constantOutOfRange ∧
    assemble [] "AX0=5;" = .error .notDagReg ∧ assemble [] "AX0=DM(I0,M4);" = .error .crossDagPair ∧
    assemble [] "I1=DM(I0,M0);" = .error .notDataReg ∧ assemble [] "AX0=PM(I0,M0);" = .error .pmNeedsDag2 ∧
    assemble [] "AX0=PM(I4,M0);" = .error .crossDagPair ∧ assemble [] "MSTAT=AX0;" = .error .namesMstat := by decide

/-- The braces of a comment; a string literal of this package holds none. -/
def braced (before comment after : String) : String :=
  before ++ String.ofList [openBrace] ++ comment ++ String.ofList [closeBrace] ++ after

set_option maxRecDepth 8000 in
/-- R50: a comment stands after a statement; V3's second line. -/
theorem test_assemble_comment :
    assemble [] (braced "L3=0; " "disable circular addressing" " M1=0;") = .ok [.ldi (.l 3) 0, .ldi (.m 1) 0] ∧
    assemble [] (braced "I3=" "x" "0x3800;") = .error .misplacedComment := by decide

set_option maxRecDepth 8000 in
/-- R50: the source writes no decimal numeral with a leading zero; its hexadecimal ones have them. -/
theorem test_assemble_leading_zero :
    assemble [] "I3=010;" = .error .badNumeral ∧ assemble [] "I3=0x0008; M2=0;" = .ok [.ldi (.i 3) 8, .ldi (.m 2) 0] := by
  decide

set_option maxRecDepth 8000 in
/-- R50, D16: no spelling of the minus sign, of a symbol or of blanks that the source does not show. -/
theorem test_assemble_unshown_spellings :
    assemble [] "M0=-0x1;" = .error .shape ∧ assemble [] "M0=- 1;" = .error .shape ∧
    assemble [] "M0=-0;" = .error .shape ∧ assemble [] "AX0=DM(-0);" = .error .shape ∧
    assemble [⟨"a1", 1, false, 0⟩] "I0=^a1;" = .error .badName ∧ assemble [] "AX0=DM( I0,M0);" = .error .shape ∧
    assemble [] "ENABIT_REV;" = .error .shape ∧ assemble [] "M0 = -1;" = .ok [.ldi (.m 0) 0x3FFF] := by decide

set_option maxRecDepth 8000 in
/-- R61, D2: with DREG the attested registers, a text naming AX1 is refused. -/
theorem test_assemble_outside_dreg :
    assembleWith [.ax0, .mx0] [] "AX1=DM(I0,M0);" = .error .outsideDreg ∧
    assembleWith [.ax0, .mx0] [] "MX0=DM(I0,M0);" = .ok [.dmiR .mx0 0 0] := by decide

/-! ### The parameters of a step (R6) -/

/-- D2: with DREG the attested registers, the word of `AX1=PX;` is refused. -/
theorem test_step_outside_dreg :
    stopOf (stepWith Parameters.attested (State.reset.withFetchWord 24 0x0D0317)) =
      some (.inr (.undecodable .outsideDreg)) := by decide

/-- T6: `AX0=DM(I0,M0);` with I0 = 5, M0 = 3, L0 = 3 is a fault where D24 is followed. -/
theorem test_step_unspecified_fault :
    stopOf (stepWith Parameters.attested ((pair 0 0 5 3 3).withFetchWord 24 0x600000)) =
      some (.inl .unspecifiedModify) := by decide

/-! ### Reset -/

theorem test_reset_inv : State.reset.inv := by decide

/-! ### Witnesses: a state and operands that meet the hypotheses of each statement -/

theorem witness_LdiLoadsConstantModulo :
    (-8192 : Int) ≤ -8192 ∧ (-8192 : Int) ≤ 16383 ∧ State.reset.pc ≠ topAddress := by decide

theorem witness_DirectReadLoadsRegister :
    halfMapped.map.dmMapped 0x1FFF = true ∧ halfMapped.pc ≠ topAddress := by decide

theorem witness_DirectWriteStoresBusValue :
    State.reset.map.dmMapped 0x3FFF = true ∧ State.reset.pc ≠ topAddress := by decide

theorem witness_IndirectReadLoadsAndModifies :
    dmPairOk 3 2 = true ∧ (pair 3 2 0x3800 0 0).map.dmMapped (outAddr 3 (pair 3 2 0x3800 0 0)) = true ∧
      (pair 3 2 0x3800 0 0).pc ≠ topAddress ∧ narrow .ax0 = false ∧
      nextAddr (pair 3 2 0x3800 0 0).i[3] (pair 3 2 0x3800 0 0).m[2] (pair 3 2 0x3800 0 0).l[3] = some 0x3800 := by decide

theorem witness_IndirectWriteStoresAndModifies :
    dmPairOk 5 6 = true ∧ (pair 5 6 4 0x3FFF 3).map.dmMapped (outAddr 5 (pair 5 6 4 0x3FFF 3)) = true ∧
      (pair 5 6 4 0x3FFF 3).pc ≠ topAddress ∧
      nextAddr (pair 5 6 4 0x3FFF 3).i[5] (pair 5 6 4 0x3FFF 3).m[6] (pair 5 6 4 0x3FFF 3).l[5] = some 6 := by decide

theorem witness_MoveCarriesBusValue : (State.reset.setPc 0x3FFE).pc ≠ topAddress := by decide

theorem witness_EnableSetsBitReverse : State.reset.pc ≠ topAddress := by decide

theorem witness_DisableClearsBitReverse : (State.reset.setBitRev true).pc ≠ topAddress := by decide

theorem witness_ProgramReadSplitsWord :
    pmPairOk 4 7 = true ∧ (pair 4 7 0x3FFF 1 0).map.pmMapped (pair 4 7 0x3FFF 1 0).i[4] = true ∧
      (pair 4 7 0x3FFF 1 0).pc ≠ topAddress ∧ narrow .ax0 = false ∧
      nextAddr (pair 4 7 0x3FFF 1 0).i[4] (pair 4 7 0x3FFF 1 0).m[7] (pair 4 7 0x3FFF 1 0).l[4] = some 0 := by decide

theorem witness_ProgramWriteJoinsRegisterAndPx :
    pmPairOk 7 4 = true ∧ (pair 7 4 0 0 1).map.pmMapped (pair 7 4 0 0 1).i[7] = true ∧
      (pair 7 4 0 0 1).pc ≠ topAddress ∧
      nextAddr (pair 7 4 0 0 1).i[7] (pair 7 4 0 0 1).m[4] (pair 7 4 0 0 1).l[7] = some 0 := by decide

theorem witness_NarrowRegistersKeepLowByte :
    narrow .se = true ∧ narrow .mr2 = true ∧ (∃ t, exec (.dmdR (.data .se) 0) State.reset = .next t) ∧
      (∃ t, exec (.dmiR .mr2 0 0) State.reset = .next t) ∧
      (Drives State.reset .px 0 ∧ ∃ t, exec (.mov (.data .se) .px) State.reset = .next t) ∧
      (∃ t, exec (.pmiR .mr2 4 4) State.reset = .next t) :=
  ⟨rfl, rfl, ⟨_, rfl⟩, ⟨_, rfl⟩, ⟨rfl, _, rfl⟩, ⟨_, rfl⟩⟩

/-- abs(M) = L in the first, I in the gap above the buffer in the second (T2). -/
theorem witness_UnspecifiedModifyDrawsFreeValue :
    (dmPairOk 0 0 = true ∧ (pair 0 0 5 3 3).map.dmMapped (outAddr 0 (pair 0 0 5 3 3)) = true ∧
      (pair 0 0 5 3 3).pc ≠ topAddress ∧
      nextAddr (pair 0 0 5 3 3).i[0] (pair 0 0 5 3 3).m[0] (pair 0 0 5 3 3).l[0] = none) ∧
    (pmPairOk 4 4 = true ∧ (pair 4 4 7 1 3).map.pmMapped (pair 4 4 7 1 3).i[4] = true ∧
      (pair 4 4 7 1 3).pc ≠ topAddress ∧
      nextAddr (pair 4 4 7 1 3).i[4] (pair 4 4 7 1 3).m[4] (pair 4 4 7 1 3).l[4] = none) := by decide

theorem witness_BitReverseActsOnDag1OutputOnly :
    (((3 : RegNo).val < 4 ∧ (State.reset.setBitRev true).bitRev = true) ∧ 13 < 14) ∧
      (4 ≤ (4 : RegNo).val ∨ (State.reset.setBitRev true).bitRev = false) ∧
      (4 ≤ (3 : RegNo).val ∨ State.reset.bitRev = false) := by decide

/-- R81's worked example at its last address: N = 3, c = 0x0010, k = 7; bits below and above N. -/
theorem witness_ReversalOfFewerBits :
    (3 : Nat) ≤ 14 ∧ 7 < 2 ^ 3 ∧ 0x0010 < 2 ^ (14 - 3) ∧ (0 : RegNo).val < 4 ∧ 2 < 14 ∧ 2 < 3 ∧ 13 < 14 ∧ ¬ 13 < 3 ∧
      ((pair 0 0 0x3810 0x0800 0).setBitRev true).bitRev = true ∧
      ((pair 0 0 0x3810 0x0800 0).setBitRev true).i[0] = BitVec.ofNat 14 (0x0010 + 7 * 2 ^ (14 - 3)) ∧
      ((pair 0 0 0x3810 0x0800 0).setBitRev true).m[0] = BitVec.ofNat 14 (2 ^ (14 - 3)) ∧
      ((pair 0 0 0x3810 0x0800 0).setBitRev true).l[0] = 0 ∧
      outAddr 0 ((pair 0 0 0x3810 0x0800 0).setBitRev true) = 0x0207 := by decide

theorem witness_BitReverseLeavesModifyInNormalOrder :
    dmPairOk 3 0 = true ∧ (3 : RegNo).val < 4 ∧ (pair 3 0 1 1 0).pc ≠ topAddress ∧
      (pair 3 0 1 1 0).map.dmMapped (pair 3 0 1 1 0).i[3] = true ∧
      (pair 3 0 1 1 0).map.dmMapped (bitrev14 (pair 3 0 1 1 0).i[3]) = true ∧ narrow .ax0 = false := by decide

/-- I0 = 5, M0 = -1, L0 = 3, B = 4 (V5). -/
theorem witness_ModuloFormula :
    (3 : Word14) ≠ 0 ∧ BaseAllowed 4 (3 : Word14).toNat ∧ InBuffer (5 : Word14).toNat 4 (3 : Word14).toNat ∧
      ModifyInRange 0x3FFF 3 :=
  ⟨by decide, ⟨2, by decide⟩, ⟨by decide, by decide⟩, by unfold ModifyInRange; decide⟩

/-- The three branches of the one correction: down by L, up by L, none. -/
theorem witness_ModuloFormula_branches :
    ((4 : Int) + 3 ≤ 6 + (1 : Word14).toInt ∧ InBuffer 6 4 3 ∧ ModifyInRange 1 3) ∧
      ((4 : Int) + (0x3FFF : Word14).toInt < 4 ∧ InBuffer 4 4 3 ∧ ModifyInRange 0x3FFF 3) ∧
      (¬ (4 : Int) + 3 ≤ 5 + (1 : Word14).toInt ∧ InBuffer 5 4 3) := by
  unfold InBuffer ModifyInRange; decide

theorem witness_CircularWalkWrapsAround :
    (8193 : Word14) ≠ 0 ∧ BaseAllowed 0 (8193 : Word14).toNat ∧
      InBuffer (0x2000 : Word14).toNat 0 (8193 : Word14).toNat ∧ ModifyInRange 1 8193 :=
  ⟨by decide, ⟨14, by decide⟩, ⟨by decide, by decide⟩, by unfold ModifyInRange; decide⟩

theorem witness_BaseIsDeterminedByAddressAndLength :
    16383 < 2 ^ 14 ∧ 0 < 8193 ∧ 8193 < 2 ^ 14 ∧ 8192 < 8193 ∧ BaseAllowed 8 5 ∧ InBuffer 12 8 5 :=
  ⟨by decide, by decide, by decide, by decide, ⟨3, by decide⟩, ⟨by decide, by decide⟩⟩

theorem witness_CircularArrayBaseIsItsOwn :
    ArrayDecl.placed ⟨"coefficients", 128, true, 0x0100⟩ = true ∧ 128 < 2 ^ 14 ∧ InBuffer 0x017F 0x0100 128 :=
  ⟨by decide, by decide, ⟨by decide, by decide⟩⟩

theorem witness_DagOperationsCommute :
    dmPairOk 3 0 = true ∧ dmPairOk 4 7 = true ∧ Dag.of 3 ≠ Dag.of 4 := by decide

theorem witness_WriteSetsExactlyOneWord :
    (∃ t, writeDm 0x3FFF 7 State.reset = .next t) ∧ (∃ t, writePm 0 7 State.reset = .next t) :=
  ⟨⟨_, rfl⟩, ⟨_, rfl⟩⟩

theorem witness_RegistersChangeOnlyWhereNamed :
    (∃ t, exec (.dmiR .ax0 0 0) ((pair 0 0 5 1 0).putDm 5 9) = .next t ∧
      t.dagReg (.i 0) ≠ ((pair 0 0 5 1 0).putDm 5 9).dagReg (.i 0) ∧
      t.data .ax0 ≠ ((pair 0 0 5 1 0).putDm 5 9).data .ax0) :=
  ⟨_, rfl, by decide, by decide⟩

theorem witness_PxChangesOnlyByReadOrName :
    ∃ t, step ((State.reset.withFetchWord 24 0x500000).setPx 1) = .next t ∧
      t.px ≠ ((State.reset.withFetchWord 24 0x500000).setPx 1).px :=
  ⟨_, rfl, by decide⟩

theorem witness_ModeChangesOnlyByEnableDisable :
    ∃ t, exec .enaBr State.reset = .next t ∧ t.bitRev ≠ State.reset.bitRev :=
  ⟨_, rfl, by decide⟩

theorem witness_BitReverseInvisibleOutsideDag1 :
    Instr.avoidsDag1 (.dmiR .ax0 4 4) ∧ Instr.dmiR .ax0 4 4 ≠ .enaBr ∧ Instr.dmiR .ax0 4 4 ≠ .disBr :=
  ⟨rfl, by decide, by decide⟩

theorem witness_MemoryChangesOnlyByStores :
    (∃ t, exec (.dmdW (.data .ax0) 0x0120) State.reset = .next t) ∧
      ¬ Instr.storesDm State.reset (.dmdW (.data .ax0) 0x0120) 0x0121 ∧
      ¬ Instr.storesPm State.reset (.dmdW (.data .ax0) 0x0120) 0x0120 :=
  ⟨⟨_, rfl⟩, by unfold Instr.storesDm; decide, id⟩

theorem witness_ReadThenWriteCopiesWholeWord :
    narrow .ax0 = false ∧ (5 : RegNo) ≠ 4 ∧
      ∃ t u, exec (.pmiR .ax0 4 4) State.reset = .next t ∧ exec (.pmiW .ax0 5 4) t = .next u :=
  ⟨rfl, by decide, _, _, rfl, rfl⟩

theorem witness_PcAdvancesByOneOrRefuses :
    (∃ t, exec .disBr (State.reset.setPc 0x3FFE) = .next t) ∧ (State.reset.setPc 0x3FFF).pc = topAddress :=
  ⟨⟨_, rfl⟩, rfl⟩

theorem witness_UnmappedAccessIsStuck :
    halfMapped.map.dmMapped 0x2000 = false ∧
      dmPairOk 0 0 = true ∧ (halfMapped.setI 0 0x3FFF).map.dmMapped (outAddr 0 (halfMapped.setI 0 0x3FFF)) = false ∧
      pmPairOk 4 4 = true ∧ (halfMapped.setI 4 0x2000).map.pmMapped (halfMapped.setI 4 0x2000).i[4] = false := by decide

theorem witness_IllegalPairsAreRefused :
    Dag.of 3 ≠ Dag.of 4 ∧ (Dag.of 0 = .dag1 ∧ Dag.of 3 = .dag1) ∧ pairNamed .pm "I4" "M7" = .ok (4, 7) ∧
      pairNamed .dm "I3" "M0" = .ok (3, 0) := by decide

theorem witness_StepKeepsCanonicalMemories :
    (State.reset.withFetchWord 24 0x580000).inv ∧ ∃ t, step (State.reset.withFetchWord 24 0x580000) = .next t :=
  ⟨by decide, _, rfl⟩

theorem witness_StepRunsDecodedInstruction :
    ((State.reset.withFetchWord 24 0x0C00C0).pc.toNat ∉ (State.reset.withFetchWord 24 0x0C00C0).pmWritten ∧
      (State.reset.withFetchWord 24 0x0C00C0).map.pmMapped (State.reset.withFetchWord 24 0x0C00C0).pc = true ∧
      (State.reset.withFetchWord 24 0x0C00C0).pm.lookup (State.reset.withFetchWord 24 0x0C00C0).pc.toNat =
        some 0x0C00C0) ∧
      decode 0x0C00C0 = .ok .enaBr ∧ Parameters.named.unspecified = .freeValue ∧
      Instr.admittedBy Parameters.named.dreg .enaBr = true ∧
      Parameters.named.encoding.decode 0x0C00C0 = .ok .enaBr :=
  ⟨by decide, rfl, rfl, rfl, rfl⟩

/-- The state of T6 with `AX0=DM(I0,M0);` placed at `pc`, and the same with M0 in range. -/
theorem witness_UnspecifiedResultIsFaultUnderD24 :
    Parameters.attested.unspecified = .fault ∧
      fetch ((pair 0 0 5 3 3).withFetchWord 24 0x600000) = .next 0x600000 ∧
      Parameters.attested.encoding.decode 0x600000 = .ok (.dmiR .ax0 0 0) ∧
      Instr.admittedBy Parameters.attested.dreg (.dmiR .ax0 0 0) = true ∧
      unspecifiedModify (.dmiR .ax0 0 0) ((pair 0 0 5 3 3).withFetchWord 24 0x600000) = true ∧
      (∃ t, exec (.dmiR .ax0 0 0) ((pair 0 0 5 3 3).withFetchWord 24 0x600000) = .next t) ∧
      fetch ((pair 0 0 5 2 3).withFetchWord 24 0x600000) = .next 0x600000 ∧
      unspecifiedModify (.dmiR .ax0 0 0) ((pair 0 0 5 2 3).withFetchWord 24 0x600000) = false ∧
      ∃ t, stepWith Parameters.attested ((pair 0 0 5 2 3).withFetchWord 24 0x600000) = .next t :=
  ⟨rfl, rfl, rfl, rfl, by decide, ⟨_, rfl⟩, rfl, by decide, _, rfl⟩

theorem witness_RegistersOutsideDregAreRefused :
    fetch (State.reset.withFetchWord 24 0x0D0317) = .next 0x0D0317 ∧
      Parameters.attested.encoding.decode 0x0D0317 = .ok (.mov (.data .ax1) .px) ∧
      .ax1 ∈ Instr.dataRegs (.mov (.data .ax1) .px) ∧ .ax1 ∉ Parameters.attested.dreg :=
  ⟨rfl, rfl, by decide, by decide⟩

theorem witness_DrawsMarkUnspecifiedResults :
    (∃ t, exec (.pmiW .ax0 4 4) (pair 4 4 7 1 3) = .next t ∧ ¬ SameDraws (pair 4 4 7 1 3) t) ∧
      ∃ t, exec (.pmiW .ax0 4 4) (pair 4 4 6 1 3) = .next t ∧ SameDraws (pair 4 4 6 1 3) t :=
  ⟨⟨_, rfl, by unfold SameDraws; decide⟩, _, rfl, by unfold SameDraws; decide⟩

theorem witness_FetchStopsByName :
    ((State.reset.putPm 0 0).pc.toNat ∈ (State.reset.putPm 0 0).pmWritten) ∧
      ((halfMapped.setPc 0x2000).pc.toNat ∉ (halfMapped.setPc 0x2000).pmWritten ∧
        (halfMapped.setPc 0x2000).map.pmMapped (halfMapped.setPc 0x2000).pc = false) ∧
      ((halfMapped.setPc 0x1FFF).map.pmMapped (halfMapped.setPc 0x1FFF).pc = true ∧
        (halfMapped.setPc 0x1FFF).pm.lookup (halfMapped.setPc 0x1FFF).pc.toNat = none) ∧
      ((State.reset.withFetchWord 24 0).pc.toNat ∉ (State.reset.withFetchWord 24 0).pmWritten ∧
        (State.reset.withFetchWord 24 0).map.pmMapped (State.reset.withFetchWord 24 0).pc = true ∧
        (State.reset.withFetchWord 24 0).pm.lookup (State.reset.withFetchWord 24 0).pc.toNat = some 0) ∧
      decode 0 = .error .noFormat :=
  ⟨by decide, by decide, by decide, by decide, rfl⟩

theorem witness_WrittenWordIsNeverFetched :
    ∃ t, exec (.pmiW .ax0 4 4) (pair 4 4 1 0 0) = .next t ∧ Reaches t t ∧ t.pc = (pair 4 4 1 0 0).i[4] :=
  ⟨_, rfl, .refl _, by decide⟩

theorem witness_PlacedWordRunsNext : decodeTableWord 24 0x0D0C70 = some (.mov .px (.data .ax0)) := by decide

theorem witness_LoadedProgramStandsInOrder :
    (State.reset.setPc 0x3FFE).pc.toNat + [Instr.enaBr, .disBr].length ≤ 2 ^ 14 ∧
      [Instr.enaBr, .disBr][1]? = some .disBr := by decide

/-- An encoding that is not the candidate: ENA_BR as the word 0 and every other statement as 1, which is no word. -/
def otherEncoding : Parameters :=
  { dreg := [.ax0, .mx0], unspecified := .freeValue,
    encoding :=
      { encode := fun f => if f = .enaBr then 0 else 1,
        decode := fun w => if w = 0 then .ok .enaBr else .error .noFormat } }

theorem witness_LoadedStatementRunsUnderEveryEncoding :
    otherEncoding.encoding.decode (otherEncoding.encoding.encode .enaBr) = .ok .enaBr ∧
      otherEncoding.unspecified = .freeValue ∧ Instr.admittedBy otherEncoding.dreg .enaBr = true ∧
      (State.reset.setPc 0x3FFE).pc.toNat + [Instr.disBr, .enaBr].length ≤ 2 ^ 14 ∧
      [Instr.disBr, .enaBr][1]? = some .enaBr ∧
      (State.reset.setPc 0x3FFE).map.pmMapped ((State.reset.setPc 0x3FFE).pc + BitVec.ofNat 14 1) = true :=
  ⟨rfl, rfl, rfl, by decide, rfl, by decide⟩

theorem witness_DecodeEncodeRoundTrip : Instr.wf (.pmiW .sr1 7 4) = true := by decide

theorem witness_DecodedWordIsItsEncoding : decode 0x37FFF4 = .ok (.ldi (.m 0) 0x3FFF) := by rfl

theorem witness_OpcodeRowsDoNotOverlap :
    (⟨.dmiW, 0x680000, 0xEFFF00⟩ : OpcodeRow) ∈ opcodeRows ∧ (0x7800FF : Word24) &&& 0xEFFF00 = 0x680000 := by decide

set_option maxRecDepth 8000 in
theorem witness_AssembledInstructionsAreWellFormed :
    assemble [] "PM(I4,M7)=AX0;" = .ok [.pmiW .ax0 4 7] := by decide

end Sys2Proof.Tests
end

section
/-! Proofs of the statements about a step as a whole (spec/00_scope.md): a step is the decoded instruction run on the
same state, and a loaded program's statements are what the steps at its addresses run. -/

namespace Sys2Proof.Machine

/-! ### A step is the meaning of the decoded instruction (R2, R25) -/

/-- Where the treatment is a free value, a step is the meaning of the instruction that the fetched word stands for, be
it a next state or a stop. -/
theorem stepWith_of_fetch {p : Parameters} {s : State} {w : Word24} {f : Instr} (hfree : p.unspecified = .freeValue)
    (hfetch : fetch s = .next w) (hdecode : p.encoding.decode w = .ok f) (hdreg : f.admittedBy p.dreg = true) :
    stepWith p s = exec f s := by
  have hdecoded : decodedWith p w = .next f := (decodedWith_eq_next p w f).mpr ⟨hdecode, hdreg⟩
  rw [stepWith, hfetch, thenDo_next, hdecoded, thenDo_next, executedWith_of_freeValue p f s hfree]

/-- Settles O40: `step` is `stepWith` at the named parameters, so both clauses are `stepWith_of_fetch`. -/
theorem stepRunsDecodedInstruction : Obligations.StepRunsDecodedInstruction := by
  intro s w f hunwritten hmapped hheld
  have hfetch : fetch s = .next w := (fetch_eq_next s w).mpr ⟨hunwritten, hmapped, hheld⟩
  constructor
  · intro hdecode
    exact stepWith_of_fetch (p := Parameters.named) rfl hfetch hdecode (admittedBy_named f)
  · intro p hfree hdreg hdecode
    exact stepWith_of_fetch hfree hfetch hdecode hdreg

/-! ### Words loaded from outside (R151, R153) -/

/-- Program memory holds `w` at `b` and no statement wrote it: what a fetch at `b` needs of memory (`fetch_eq_next`). -/
def State.HoldsLoaded (s : State) (b : Nat) (w : Word24) : Prop :=
  b ∉ s.pmWritten ∧ s.pm.lookup b = some w

theorem State.placePm_holdsLoaded_self (s : State) (a : Word14) (w : Word24) :
    (s.placePm a w).HoldsLoaded a.toNat w := by
  simp [State.HoldsLoaded]

theorem State.placePm_holdsLoaded_of_ne {s : State} {a : Word14} {v : Word24} {b : Nat} {w : Word24}
    (hne : b ≠ a.toNat) (h : s.HoldsLoaded b w) : (s.placePm a v).HoldsLoaded b w := by
  obtain ⟨hunwritten, hheld⟩ := h
  constructor
  · simp [hunwritten]
  · rw [State.placePm_pm, Memory.lookup_store_of_ne _ _ _ _ hne, hheld]

/-- `placeWords` walks by `a + 1` where the statements count by `a + n`; the two agree past the wrap as well. -/
theorem add_one_add_ofNat (a : Word14) (n : Nat) : a + 1 + BitVec.ofNat 14 n = a + BitVec.ofNat 14 (n + 1) := by
  bv_omega

/-- Placing words leaves a loaded word alone if none of them is placed on it. -/
theorem State.placeWords_holdsLoaded_of_ne {words : List Word24} {s : State} {a : Word14} {b : Nat} {w : Word24}
    (hne : ∀ n < words.length, b ≠ (a + BitVec.ofNat 14 n).toNat) (h : s.HoldsLoaded b w) :
    (s.placeWords a words).HoldsLoaded b w := by
  induction words generalizing s a with
  | nil => exact h
  | cons v rest ih =>
    have hhead : b ≠ a.toNat := by simpa using hne 0 (by simp)
    refine ih (fun n hn => ?_) (State.placePm_holdsLoaded_of_ne hhead h)
    rw [add_one_add_ofNat]
    exact hne (n + 1) (by simpa using hn)

/-- The `k`-th of the words placed from `a` on is loaded `k` addresses after `a`: there are no more words than
addresses, so no later word is placed on it. -/
theorem State.placeWords_holdsLoaded {words : List Word24} {s : State} {a : Word14} {k : Nat} {w : Word24}
    (hfits : words.length ≤ 2 ^ 14) (hk : words[k]? = some w) :
    (s.placeWords a words).HoldsLoaded (a + BitVec.ofNat 14 k).toNat w := by
  induction words generalizing s a k with
  | nil => simp at hk
  | cons v rest ih =>
    rw [List.length_cons] at hfits
    cases k with
    | zero =>
      obtain rfl : v = w := by simpa using hk
      have hlater : ∀ n < rest.length, a.toNat ≠ (a + 1 + BitVec.ofNat 14 n).toNat := by
        intro n hn
        bv_omega
      simpa [State.placeWords] using
        State.placeWords_holdsLoaded_of_ne hlater (s.placePm_holdsLoaded_self a v)
    | succ k =>
      rw [← add_one_add_ofNat]
      exact ih (Nat.le_of_succ_le hfits) (by simpa using hk)

/-- A loaded program's `k`-th statement stands encoded `k` addresses after the base. -/
theorem State.loadProgram_holdsLoaded (s : State) (e : Encoding) {program : List Instr} {k : Nat} {f : Instr}
    (hfits : program.length ≤ 2 ^ 14) (hk : program[k]? = some f) :
    (s.loadProgram e program).HoldsLoaded (s.pc + BitVec.ofNat 14 k).toNat (e.encode f) :=
  State.placeWords_holdsLoaded (by simpa using hfits) (by simp [hk])

@[simp] theorem State.loadProgram_map (s : State) (e : Encoding) (program : List Instr) :
    (s.loadProgram e program).map = s.map :=
  State.placeWords_map s s.pc (program.map e.encode)

/-- With `pc` on a mapped address that holds a loaded word, the word is what is fetched. -/
theorem fetch_setPc_of_holdsLoaded {s : State} {a : Word14} {w : Word24} (hmapped : s.map.pmMapped a = true)
    (h : s.HoldsLoaded a.toNat w) : fetch (s.setPc a) = .next w := by
  obtain ⟨hunwritten, hheld⟩ := h
  exact (fetch_eq_next (s.setPc a) w).mpr ⟨hunwritten, hmapped, hheld⟩

/-- Settles O47: the loaded statement's word is fetched (`State.loadProgram_holdsLoaded`), and the step runs it. -/
theorem loadedStatementRunsUnderEveryEncoding : Obligations.LoadedStatementRunsUnderEveryEncoding := by
  intro p s program k f hdecode hfree hdreg hfits hk hmapped
  have hloaded := s.loadProgram_holdsLoaded p.encoding (by omega) hk
  have hfetch : fetch ((s.loadProgram p.encoding program).setPc (s.pc + BitVec.ofNat 14 k)) =
      .next (p.encoding.encode f) :=
    fetch_setPc_of_holdsLoaded (by rwa [State.loadProgram_map]) hloaded
  exact stepWith_of_fetch hfree hfetch hdecode hdreg

end Sys2Proof.Machine
end

section
/-! Proofs of the statements about the state (spec/10_state.md): what a register drives onto the DMD bus and keeps of
it, which addresses the mode bit reverses, and what a completed statement may change. -/

namespace Sys2Proof.Machine

/-! ### Widening and narrowing, by number (R7, R18, R19) -/

theorem zext16_toNat (v : Word14) : (zext16 v).toNat = v.toNat :=
  BitVec.toNat_setWidth_of_le (by decide)

theorem sext16_toInt (v : Word14) : (sext16 v).toInt = v.toInt :=
  BitVec.toInt_signExtend_of_le (by decide)

theorem zextPx_toNat (v : Word8) : (zextPx v).toNat = v.toNat :=
  BitVec.toNat_setWidth_of_le (by decide)

theorem low14_toNat (v : Word16) : (low14 v).toNat = v.toNat % 16384 := by
  simp [low14]

theorem low8_toNat (v : Word16) : (low8 v).toNat = v.toNat % 256 := by
  simp [low8]

theorem pmUpper_toNat (w : Word24) : (pmUpper w).toNat = w.toNat / 256 := by
  have hlt : w.toNat < 2 ^ 24 := w.isLt
  simp only [pmUpper, BitVec.extractLsb'_toNat, Nat.shiftRight_eq_div_pow]
  omega

/-- The low byte, sign-extended, is the bus value's balanced residue modulo 256. -/
theorem sextNarrow_low8_toInt (v : Word16) : (sextNarrow (low8 v)).toInt = (v.toNat : Int).bmod 256 := by
  have hext : (sextNarrow (low8 v)).toInt = (low8 v).toInt := BitVec.toInt_signExtend_of_le (by decide)
  rw [hext, BitVec.toInt_eq_toNat_bmod, low8_toNat, Int.natCast_mod]
  exact Int.emod_bmod _ 256

/-! ### Registers on the DMD bus (R18, R19) -/

/-- `Drives`, which speaks by number, fixes the bus value: it is the one the model drives. -/
theorem drives_iff_eq_busRead (s : State) (r : Reg) (v : Word16) : Drives s r v ↔ v = s.busRead r := by
  cases r with
  | data d => exact Iff.rfl
  | px => simp only [Drives, State.busRead, BitVec.toNat_eq, zextPx_toNat]
  | dag q =>
    cases q with
    | i k => simp only [Drives, State.busRead, BitVec.toNat_eq, zext16_toNat]
    | m k => simp only [Drives, State.busRead, ← BitVec.toInt_inj, sext16_toInt]
    | l k => simp only [Drives, State.busRead, BitVec.toNat_eq, zext16_toNat]

/-- Settles O13, by `drives_iff_eq_busRead`. -/
theorem busReadExtendsByKind : Obligations.BusReadExtendsByKind :=
  fun s r => (drives_iff_eq_busRead s r _).mpr rfl

/-- Settles O14: a load is a write of the low bits to one register, which then reads as what was written. -/
theorem busWriteKeepsLowBits : Obligations.BusWriteKeepsLowBits := by
  intro s r v
  cases r with
  | dag q =>
    have hread : (s.busWrite (.dag q) v).dagReg q = low14 v := s.setDagReg_dagReg_self q (low14 v)
    rw [Holds, hread, low14_toNat]
  | data d => exact s.regs.read_write_self d v
  | px => exact low8_toNat v

/-- A load of a narrow data register, by number (notes/assumptions/2.md). -/
theorem State.setData_data_toInt_of_narrow (s : State) (d : DataReg) (v : Word16) (h : narrow d = true) :
    ((s.setData d v).data d).toInt = (v.toNat : Int).bmod 256 := by
  have hread : (s.setData d v).data d = sextNarrow (low8 v) := s.regs.read_write_narrow d v h
  rw [hread, sextNarrow_low8_toInt]

/-! ### Legal pairs (R10, R14, R16) -/

theorem dagOf_eq_dag1_iff (k : RegNo) : Dag.of k = .dag1 ↔ k.val < 4 := by
  unfold Dag.of
  split <;> simp_all

theorem dagOf_eq_dag2_iff (k : RegNo) : Dag.of k = .dag2 ↔ 4 ≤ k.val := by
  unfold Dag.of
  split <;> simp_all

theorem dmPairOk_iff (i j : RegNo) :
    dmPairOk i j = true ↔ (i.val < 4 ∧ j.val < 4) ∨ (4 ≤ i.val ∧ 4 ≤ j.val) := by
  rw [dmPairOk, decide_eq_true_iff]
  cases hj : Dag.of j with
  | dag1 => rw [dagOf_eq_dag1_iff] at hj ⊢; omega
  | dag2 => rw [dagOf_eq_dag2_iff] at hj ⊢; omega

theorem pmPairOk_iff (i j : RegNo) : pmPairOk i j = true ↔ 4 ≤ i.val ∧ 4 ≤ j.val := by
  simp only [pmPairOk, Bool.and_eq_true, decide_eq_true_iff, dagOf_eq_dag2_iff]

/-- Settles O26: well-formedness of the four indirect forms is `dmPairOk` and `pmPairOk`. -/
theorem legalPairsAreOfOneDag : Obligations.LegalPairsAreOfOneDag :=
  fun _ i j => ⟨dmPairOk_iff i j, dmPairOk_iff i j, pmPairOk_iff i j, pmPairOk_iff i j⟩

/-! ### The output address (R17, R71, R79) -/

theorem bitrev14_getLsbD (a : Word14) (k : Nat) (h : k < 14) : (bitrev14 a).getLsbD k = a.getLsbD (13 - k) := by
  rw [bitrev14, BitVec.getLsbD_reverse, BitVec.getMsbD_eq_getLsbD]
  simp [h]

theorem outAddr_of_reversed (i : RegNo) (s : State) (hdag : Dag.of i = .dag1) (hmode : s.bitRev = true) :
    outAddr i s = bitrev14 s.i[i] :=
  if_pos ⟨hdag, hmode⟩

theorem outAddr_of_dag2 (i : RegNo) (s : State) (hdag : Dag.of i = .dag2) : outAddr i s = s.i[i] :=
  if_neg fun h => by simp [hdag] at h

theorem outAddr_of_normal (i : RegNo) (s : State) (hmode : s.bitRev = false) : outAddr i s = s.i[i] :=
  if_neg fun h => by simp [hmode] at h

/-- Settles O15: the output address is `bitrev14` of the register for DAG1 in bit-reverse mode, else the register. -/
theorem bitReverseActsOnDag1OutputOnly : Obligations.BitReverseActsOnDag1OutputOnly := by
  constructor
  · intro i s hi hmode k hk
    rw [outAddr_of_reversed i s ((dagOf_eq_dag1_iff i).mpr hi) hmode, bitrev14_getLsbD _ k hk]
  · rintro i s (hi | hmode)
    · exact outAddr_of_dag2 i s ((dagOf_eq_dag2_iff i).mpr hi)
    · exact outAddr_of_normal i s hmode

/-! ### What a completed statement does, for all ten at once -/

/-- What `f` needs in `s` to complete, besides `pc` below the top: a legal pair and a mapped access (R53, R33). -/
def accessAllowed (f : Instr) (s : State) : Prop :=
  match f with
  | .ldi _ _ => True
  | .dmdR _ a => s.map.dmMapped a = true
  | .dmdW _ a => s.map.dmMapped a = true
  | .dmiR _ i j => dmPairOk i j = true ∧ s.map.dmMapped (outAddr i s) = true
  | .dmiW _ i j => dmPairOk i j = true ∧ s.map.dmMapped (outAddr i s) = true
  | .mov _ _ => True
  | .enaBr => True
  | .disBr => True
  | .pmiR _ i j => pmPairOk i j = true ∧ s.map.pmMapped s.i[i] = true
  | .pmiW _ i j => pmPairOk i j = true ∧ s.map.pmMapped s.i[i] = true

/-- What `f` does to the state when it completes, before `pc` advances. -/
def effect (f : Instr) (s : State) : State :=
  match f with
  | .ldi r c => s.setDagReg r c
  | .dmdR r a => s.busWrite r (s.dmWord a)
  | .dmdW r a => s.putDm a (s.busRead r)
  | .dmiR d i j => postModify i j (s.setData d (s.dmWord (outAddr i s)))
  | .dmiW d i j => postModify i j (s.putDm (outAddr i s) (s.data d))
  | .mov dst src => s.busWrite dst (s.busRead src)
  | .enaBr => s.setBitRev true
  | .disBr => s.setBitRev false
  | .pmiR d i j => postModify i j ((s.setData d (pmUpper (s.pmWord s.i[i]))).setPx (pmLower (s.pmWord s.i[i])))
  | .pmiW d i j => postModify i j (s.putPm s.i[i] (pmJoin (s.data d) s.px))

/-- Everything `exec` can complete with: the one inversion lemma for the ten meanings. -/
theorem exec_eq_next (f : Instr) (s t : State) :
    exec f s = .next t ↔ accessAllowed f s ∧ s.pc ≠ topAddress ∧ t = (effect f s).setPc (s.pc + 1) := by
  cases f with
  | ldi r c => exact (execLdi_eq_next r c s t).trans (iff_of_eq (true_and _)).symm
  | dmdR r a => exact execDmdR_eq_next r a s t
  | dmdW r a => exact execDmdW_eq_next r a s t
  | dmiR d i j => exact (execDmiR_eq_next d i j s t).trans and_assoc.symm
  | dmiW d i j => exact (execDmiW_eq_next d i j s t).trans and_assoc.symm
  | mov dst src => exact (execMov_eq_next dst src s t).trans (iff_of_eq (true_and _)).symm
  | enaBr => exact (execEnaBr_eq_next s t).trans (iff_of_eq (true_and _)).symm
  | disBr => exact (execDisBr_eq_next s t).trans (iff_of_eq (true_and _)).symm
  | pmiR d i j => exact (execPmiR_eq_next d i j s t).trans and_assoc.symm
  | pmiW d i j => exact (execPmiW_eq_next d i j s t).trans and_assoc.symm

theorem exec_next_eq_effect {f : Instr} {s t : State} (h : exec f s = .next t) :
    t = (effect f s).setPc (s.pc + 1) := by
  obtain ⟨-, -, ht⟩ := (exec_eq_next f s t).mp h
  exact ht

/-! ### The program counter (R25) -/

theorem finish_of_top (s : State) (h : s.pc = topAddress) : finish s = .refused .pcPastTop :=
  if_pos h

/-- Below the top address `pc + 1` does not wrap. -/
theorem toNat_add_one_of_ne_top (a : Word14) (h : a ≠ topAddress) : (a + 1).toNat = a.toNat + 1 := by
  unfold topAddress at h
  bv_omega

/-- Settles O34: every statement completes by advancing `pc`, and only below the top address (`exec_eq_next`). -/
theorem pcAdvancesByOneOrRefuses : Obligations.PcAdvancesByOneOrRefuses := by
  refine ⟨?_, ?_, ?_⟩
  · intro f s t h
    obtain ⟨-, hbelow, rfl⟩ := (exec_eq_next f s t).mp h
    exact toNat_add_one_of_ne_top s.pc hbelow
  · intro f s t htop h
    obtain ⟨-, hbelow, -⟩ := (exec_eq_next f s t).mp h
    exact hbelow htop
  · intro r c dst src s htop
    refine ⟨?_, ?_, ?_, ?_⟩
    · exact finish_of_top (s.setDagReg r c) (by rw [State.setDagReg_pc, htop])
    · exact finish_of_top (s.busWrite dst (s.busRead src)) (by rw [State.busWrite_pc, htop])
    · exact finish_of_top (s.setBitRev true) htop
    · exact finish_of_top (s.setBitRev false) htop

/-! ### Narrow data registers (R23) -/

/-- What a data register reads as does not depend on what happens to the other parts of the state. -/
theorem State.data_congr {s t : State} (h : t.regs = s.regs) (d : DataReg) : t.data d = s.data d := by
  rw [State.data, State.data, h]

/-- Settles O11: each of the four loads is `setData` as far as the data registers go. -/
theorem narrowRegistersKeepLowByte : Obligations.NarrowRegistersKeepLowByte := by
  intro d s t hnarrow
  have loaded : ∀ v, t.regs = (s.setData d v).regs → (t.data d).toInt = (v.toNat : Int).bmod 256 := by
    intro v hregs
    rw [State.data_congr hregs, s.setData_data_toInt_of_narrow d v hnarrow]
  refine ⟨?_, ?_, ?_, ?_⟩
  · intro a h
    exact loaded _ (by rw [exec_next_eq_effect h]; rfl)
  · intro i j h
    exact loaded _ (by simp [exec_next_eq_effect h, effect])
  · intro src v hdrives h
    obtain rfl := (drives_iff_eq_busRead s src v).mp hdrives
    exact loaded _ (by rw [exec_next_eq_effect h]; rfl)
  · intro i j h
    rw [← pmUpper_toNat]
    exact loaded _ (by simp [exec_next_eq_effect h, effect])

/-! ### Which registers a statement changes (R11, R12, R13, R23) -/

theorem State.dagReg_congr {s t : State} (hi : t.i = s.i) (hm : t.m = s.m) (hl : t.l = s.l) (q : DagReg) :
    t.dagReg q = s.dagReg q := by
  cases q with
  | i k => simp only [State.dagReg, hi]
  | m k => simp only [State.dagReg, hm]
  | l k => simp only [State.dagReg, hl]

@[simp] theorem State.setDagReg_regs (s : State) (r : DagReg) (v : Word14) : (s.setDagReg r v).regs = s.regs := by
  cases r <;> rfl

theorem State.setData_data_of_ne (s : State) (d e : DataReg) (v : Word16) (h : e ≠ d) :
    (s.setData d v).data e = s.data e :=
  s.regs.read_write_of_ne d e v h

/-- A load from the bus changes no DAG register but the one loaded. -/
theorem State.busWrite_dagReg_of_ne (s : State) (r : Reg) (v : Word16) (q : DagReg) (h : .dag q ≠ r) :
    (s.busWrite r v).dagReg q = s.dagReg q := by
  cases r with
  | dag p => exact s.setDagReg_dagReg_of_ne p q (low14 v) fun e => h (by rw [e])
  | data d => exact State.dagReg_congr rfl rfl rfl q
  | px => exact State.dagReg_congr rfl rfl rfl q

/-- A load from the bus changes no data register but the one loaded. -/
theorem State.busWrite_data_of_ne (s : State) (r : Reg) (v : Word16) (d : DataReg) (h : .data d ≠ r) :
    (s.busWrite r v).data d = s.data d := by
  cases r with
  | dag p => exact State.data_congr (s.setDagReg_regs p (low14 v)) d
  | data e => exact s.setData_data_of_ne e d v fun he => h (by rw [he])
  | px => rfl

/-- A post-modify changes no DAG register but I[i]. -/
theorem postModify_dagReg_of_ne (i j : RegNo) (s : State) (q : DagReg) (h : q ≠ .i i) :
    (postModify i j s).dagReg q = s.dagReg q := by
  obtain ⟨a, hpost | hpost⟩ := postModify_cases i j s
  · rw [hpost]
    exact s.setDagReg_dagReg_of_ne (.i i) q a h
  · have hcount : ((s.setI i a).countDraw (Dag.of i)).dagReg q = (s.setI i a).dagReg q :=
      State.dagReg_congr (by simp) (by simp) (by simp) q
    rw [hpost, hcount]
    exact s.setDagReg_dagReg_of_ne (.i i) q a h

theorem effect_dagReg_of_unnamed (f : Instr) (s : State) (q : DagReg) (hdst : ¬ f.writesReg (.dag q))
    (haccess : ∀ k, q = .i k → ¬ f.accessesThrough k) : (effect f s).dagReg q = s.dagReg q := by
  cases f with
  | ldi r c => exact s.setDagReg_dagReg_of_ne r q c fun e => hdst (congrArg Reg.dag e)
  | dmdR r a => exact s.busWrite_dagReg_of_ne r _ q hdst
  | mov dst src => exact s.busWrite_dagReg_of_ne dst _ q hdst
  | dmiR d i j | dmiW d i j | pmiR d i j | pmiW d i j =>
    exact (postModify_dagReg_of_ne i j _ q fun e => haccess i e rfl).trans (State.dagReg_congr rfl rfl rfl q)
  | dmdW _ _ | enaBr | disBr => exact State.dagReg_congr rfl rfl rfl q

theorem effect_data_of_unnamed (f : Instr) (s : State) (d : DataReg) (hdst : ¬ f.writesReg (.data d)) :
    (effect f s).data d = s.data d := by
  cases f with
  | ldi r c => exact State.data_congr (s.setDagReg_regs r c) d
  | dmdR r a => exact s.busWrite_data_of_ne r _ d hdst
  | mov dst src => exact s.busWrite_data_of_ne dst _ d hdst
  | dmiR e i j | pmiR e i j =>
    exact (State.data_congr (postModify_regs i j _) d).trans
      (s.setData_data_of_ne e d _ fun he => hdst (congrArg Reg.data he))
  | dmiW e i j | pmiW e i j => exact State.data_congr (postModify_regs i j _) d
  | dmdW _ _ | enaBr | disBr => rfl

/-- Settles O28: the contrapositives are `effect_dagReg_of_unnamed` and `effect_data_of_unnamed`, and advancing `pc`
changes no register. -/
theorem registersChangeOnlyWhereNamed : Obligations.RegistersChangeOnlyWhereNamed := by
  intro f s t h
  obtain rfl := exec_next_eq_effect h
  constructor
  · intro q hchanged
    by_contra hunnamed
    push Not at hunnamed
    obtain ⟨hdst, haccess⟩ := hunnamed
    exact hchanged ((State.dagReg_congr rfl rfl rfl q).trans (effect_dagReg_of_unnamed f s q hdst haccess))
  · intro d hchanged
    by_contra hdst
    exact hchanged (effect_data_of_unnamed f s d hdst)

/-! ### Running with the mode bit set beforehand or afterwards (R17, R71, R80)

Every part of a statement but the output address of DAG1 commutes with `setBitRev`. The stops are among the answers
that must agree, so the parts are compared as results and not by `exec_eq_next`. -/

section Mode

variable {α β : Type} (s : State) (b : Bool)

theorem mapNext_thenDo (g : State → State) (r : Result α) (k : α → Result State) :
    mapNext g (thenDo r k) = thenDo r fun a => mapNext g (k a) := by
  cases r <;> rfl

theorem thenDo_mapNext (g : State → State) (r : Result State) (k : State → Result β) :
    thenDo (mapNext g r) k = thenDo r fun t => k (g t) := by
  cases r <;> rfl

@[simp] theorem State.setBitRev_data (d : DataReg) : (s.setBitRev b).data d = s.data d := rfl

@[simp] theorem State.setBitRev_busRead (r : Reg) : (s.setBitRev b).busRead r = s.busRead r := by
  cases r with
  | dag q => cases q <;> rfl
  | data d => rfl
  | px => rfl

@[simp] theorem State.setBitRev_setData (d : DataReg) (v : Word16) :
    (s.setBitRev b).setData d v = (s.setData d v).setBitRev b := rfl

@[simp] theorem State.setBitRev_setPx (v : Word8) : (s.setBitRev b).setPx v = (s.setPx v).setBitRev b := rfl

@[simp] theorem State.setBitRev_setDagReg (r : DagReg) (v : Word14) :
    (s.setBitRev b).setDagReg r v = (s.setDagReg r v).setBitRev b := by
  cases r <;> rfl

@[simp] theorem State.setBitRev_busWrite (r : Reg) (v : Word16) :
    (s.setBitRev b).busWrite r v = (s.busWrite r v).setBitRev b := by
  cases r with
  | dag q => exact s.setBitRev_setDagReg b q (low14 v)
  | data d => rfl
  | px => rfl

@[simp] theorem readDm_setBitRev (a : Word14) : readDm a (s.setBitRev b) = readDm a s := rfl

@[simp] theorem readPm_setBitRev (a : Word14) : readPm a (s.setBitRev b) = readPm a s := rfl

@[simp] theorem writeDm_setBitRev (a : Word14) (v : Word16) :
    writeDm a v (s.setBitRev b) = mapNext (·.setBitRev b) (writeDm a v s) := by
  rw [writeDm, writeDm, apply_ite (mapNext (·.setBitRev b))]
  rfl

@[simp] theorem writePm_setBitRev (a : Word14) (v : Word24) :
    writePm a v (s.setBitRev b) = mapNext (·.setBitRev b) (writePm a v s) := by
  rw [writePm, writePm, apply_ite (mapNext (·.setBitRev b))]
  rfl

@[simp] theorem finish_setBitRev : finish (s.setBitRev b) = mapNext (·.setBitRev b) (finish s) := by
  rw [finish, finish, apply_ite (mapNext (·.setBitRev b))]
  rfl

@[simp] theorem postModify_setBitRev (i j : RegNo) :
    postModify i j (s.setBitRev b) = (postModify i j s).setBitRev b := by
  cases hnext : nextAddr s.i[i] s.m[j] s.l[i] with
  | some a =>
    rw [postModify_of_some i j s a hnext, postModify_of_some i j (s.setBitRev b) a hnext]
    rfl
  | none =>
    rw [postModify_of_none i j s hnext, postModify_of_none i j (s.setBitRev b) hnext]
    cases Dag.of i <;> rfl

@[simp] theorem pmAddress_setBitRev (i j : RegNo) : pmAddress i j (s.setBitRev b) = pmAddress i j s := rfl

/-- The address of a data-memory pair is the one part that reads the mode bit, and for DAG2 it does not. -/
theorem dmAddress_setBitRev_of_dag2 (i j : RegNo) (h : Dag.of i = .dag2) :
    dmAddress i j (s.setBitRev b) = dmAddress i j s := by
  rw [dmAddress, dmAddress, outAddr_of_dag2 i s h, outAddr_of_dag2 i (s.setBitRev b) h, State.setBitRev_i]

end Mode

/-- Settles O31: in each statement `setBitRev` moves past every part to the end; an indirect data-memory access needs
its address from DAG2 for that, and the two mode statements are excluded. -/
theorem bitReverseInvisibleOutsideDag1 : Obligations.BitReverseInvisibleOutsideDag1 := by
  intro f b s havoids hena hdis
  cases f with
  | ldi r c => simp only [exec, execLdi, State.setBitRev_setDagReg, finish_setBitRev]
  | dmdR r a => simp [exec, execDmdR, mapNext_thenDo]
  | dmdW r a => simp [exec, execDmdW, mapNext_thenDo, thenDo_mapNext]
  | dmiR d i j => simp [exec, execDmiR, dmAddress_setBitRev_of_dag2 s b i j havoids, mapNext_thenDo]
  | dmiW d i j => simp [exec, execDmiW, dmAddress_setBitRev_of_dag2 s b i j havoids, mapNext_thenDo, thenDo_mapNext]
  | mov dst src => simp only [exec, execMov, State.setBitRev_busRead, State.setBitRev_busWrite, finish_setBitRev]
  | enaBr => exact absurd rfl hena
  | disBr => exact absurd rfl hdis
  | pmiR d i j => simp [exec, execPmiR, mapNext_thenDo]
  | pmiW d i j => simp [exec, execPmiW, mapNext_thenDo, thenDo_mapNext]

end Sys2Proof.Machine
end

section
/-! Proofs of the statements about memory (spec/20_memory.md): what a write changes, what every step keeps of both
memories and the record of written words, and how an access or a fetch stops. -/

namespace Sys2Proof.Machine

/-! ### Reading after a write (R34) -/

theorem Memory.lookup_store {w : Nat} (m : Memory w) (a b : Nat) (v : BitVec w) :
    Memory.lookup (Memory.store m a v) b = if b = a then some v else Memory.lookup m b := by
  split
  case isTrue heq => rw [heq, Memory.lookup_store_self]
  case isFalse hne => exact Memory.lookup_store_of_ne m a b v hne

theorem readDm_putDm_self {s : State} {a : Word14} (v : Word16) (h : s.map.dmMapped a = true) :
    readDm a (s.putDm a v) = .next v :=
  (readDm_eq_next a _ v).mpr ⟨h, (s.putDm_dmWord_self a v).symm⟩

theorem readDm_putDm_of_ne {a b : Word14} (v : Word16) (s : State) (h : b ≠ a) :
    readDm b (s.putDm a v) = readDm b s := by
  rw [readDm, readDm, State.putDm_map, s.putDm_dmWord_of_ne a b v h]

theorem readPm_putPm_self {s : State} {a : Word14} (v : Word24) (h : s.map.pmMapped a = true) :
    readPm a (s.putPm a v) = .next v :=
  (readPm_eq_next a _ v).mpr ⟨h, (s.putPm_pmWord_self a v).symm⟩

theorem readPm_putPm_of_ne {a b : Word14} (v : Word24) (s : State) (h : b ≠ a) :
    readPm b (s.putPm a v) = readPm b s := by
  rw [readPm, readPm, State.putPm_map, s.putPm_pmWord_of_ne a b v h]

/-- Settles O27: a completed write is a `putDm` or a `putPm`, and the other memory is a field that neither writes. -/
theorem writeSetsExactlyOneWord : Obligations.WriteSetsExactlyOneWord := by
  constructor
  · intro a b v s t h
    obtain ⟨hmapped, rfl⟩ := (writeDm_eq_next a v s t).mp h
    refine ⟨?_, rfl⟩
    split
    case isTrue heq => rw [heq, readDm_putDm_self v hmapped]
    case isFalse hne => exact readDm_putDm_of_ne v s hne
  · intro a b v s t h
    obtain ⟨hmapped, rfl⟩ := (writePm_eq_next a v s t).mp h
    refine ⟨?_, rfl⟩
    split
    case isTrue heq => rw [heq, readPm_putPm_self v hmapped]
    case isFalse hne => exact readPm_putPm_of_ne v s hne

/-! ### What a completed statement does to the memories, for all ten at once -/

/-- Both memories and the record of written addresses stand as they stood. -/
structure SameMemories (s t : State) : Prop where
  dm : t.dm = s.dm
  pm : t.pm = s.pm
  pmWritten : t.pmWritten = s.pmWritten

theorem SameMemories.trans {s t u : State} (hst : SameMemories s t) (htu : SameMemories t u) : SameMemories s u :=
  ⟨htu.dm.trans hst.dm, htu.pm.trans hst.pm, htu.pmWritten.trans hst.pmWritten⟩

theorem State.setPc_sameMemories (s : State) (a : Word14) : SameMemories s (s.setPc a) :=
  ⟨rfl, rfl, rfl⟩

theorem State.setPx_sameMemories (s : State) (v : Word8) : SameMemories s (s.setPx v) :=
  ⟨rfl, rfl, rfl⟩

theorem State.setData_sameMemories (s : State) (d : DataReg) (v : Word16) : SameMemories s (s.setData d v) :=
  ⟨rfl, rfl, rfl⟩

theorem State.setDagReg_sameMemories (s : State) (r : DagReg) (v : Word14) : SameMemories s (s.setDagReg r v) := by
  cases r <;> exact ⟨rfl, rfl, rfl⟩

theorem State.busWrite_sameMemories (s : State) (r : Reg) (v : Word16) : SameMemories s (s.busWrite r v) := by
  cases r with
  | dag q => exact s.setDagReg_sameMemories q (low14 v)
  | data d => exact s.setData_sameMemories d v
  | px => exact s.setPx_sameMemories (low8 v)

theorem postModify_sameMemories (i j : RegNo) (s : State) : SameMemories s (postModify i j s) :=
  ⟨postModify_dm i j s, postModify_pm i j s, postModify_pmWritten i j s⟩

/-- A statement leaves the memories as they are, or is a store of one word to the address it names. -/
theorem effect_memories_cases (f : Instr) (s : State) :
    SameMemories s (effect f s) ∨
      (∃ a v, f.storesDm s a ∧ SameMemories (s.putDm a v) (effect f s)) ∨
      (∃ a v, f.storesPm s a ∧ SameMemories (s.putPm a v) (effect f s)) := by
  cases f with
  | ldi r c => exact .inl (s.setDagReg_sameMemories r c)
  | dmdR r a => exact .inl (s.busWrite_sameMemories r _)
  | mov dst src => exact .inl (s.busWrite_sameMemories dst _)
  | enaBr | disBr => exact .inl ⟨rfl, rfl, rfl⟩
  | dmiR d i j => exact .inl ((s.setData_sameMemories d _).trans (postModify_sameMemories i j _))
  | pmiR d i j =>
    exact .inl ((s.setData_sameMemories d _).trans
      ((State.setPx_sameMemories _ _).trans (postModify_sameMemories i j _)))
  | dmdW r a => exact .inr (.inl ⟨a, _, rfl, rfl, rfl, rfl⟩)
  | dmiW d i j => exact .inr (.inl ⟨outAddr i s, _, rfl, postModify_sameMemories i j _⟩)
  | pmiW d i j => exact .inr (.inr ⟨s.i[i], _, rfl, postModify_sameMemories i j _⟩)

/-- What a step can do to the memories: nothing, or one word put into one of them. -/
theorem step_memories_cases {s t : State} (h : step s = .next t) :
    SameMemories s t ∨ (∃ a v, SameMemories (s.putDm a v) t) ∨ (∃ a v, SameMemories (s.putPm a v) t) := by
  obtain ⟨w, f, -, -, hexec⟩ := (step_eq_next s t).mp h
  obtain rfl := exec_next_eq_effect hexec
  have hpc := (effect f s).setPc_sameMemories (s.pc + 1)
  obtain hsame | ⟨a, v, -, hdm⟩ | ⟨a, v, -, hpm⟩ := effect_memories_cases f s
  · exact .inl (hsame.trans hpc)
  · exact .inr (.inl ⟨a, v, hdm.trans hpc⟩)
  · exact .inr (.inr ⟨a, v, hpm.trans hpc⟩)

/-! ### The canonical form (R30, R31, R34, R44) -/

/-- The invariant speaks of the memories and the record alone. -/
theorem State.inv_of_sameMemories {s t : State} (h : SameMemories s t) (hs : s.inv) : t.inv := by
  rwa [State.inv, h.dm, h.pm, h.pmWritten]

theorem State.putDm_inv {s : State} (a : Word14) (v : Word16) (h : s.inv) : (s.putDm a v).inv := by
  obtain ⟨hdm, hpm, hrecord, hheld⟩ := h
  exact ⟨s.putDm_dm_wf a v hdm, hpm, hrecord, hheld⟩

/-- A write to program memory records the address it puts a word at, and takes no word away. -/
theorem State.putPm_inv {s : State} (a : Word14) (v : Word24) (h : s.inv) : (s.putPm a v).inv := by
  obtain ⟨hdm, hpm, hrecord, hheld⟩ := h
  refine ⟨hdm, s.putPm_pm_wf a v hpm, s.putPm_pmWritten_wf a v hrecord, fun b hb => ?_⟩
  rw [State.putPm_pm, Memory.lookup_store]
  split
  case isTrue => rfl
  case isFalse hne =>
    obtain heq | hmem := (mem_recordAddress s.pmWritten a.toNat b).mp hb
    · exact absurd heq hne
    · exact hheld b hmem

/-- Settles O38, by the cases of `step_memories_cases`. -/
theorem stepKeepsCanonicalMemories : Obligations.StepKeepsCanonicalMemories := by
  intro s t hs hstep
  obtain hsame | ⟨a, v, hdm⟩ | ⟨a, v, hpm⟩ := step_memories_cases hstep
  · exact State.inv_of_sameMemories hsame hs
  · exact State.inv_of_sameMemories hdm (State.putDm_inv a v hs)
  · exact State.inv_of_sameMemories hpm (State.putPm_inv a v hs)

/-! ### How a fetch stops (R33, R44, R61) -/

theorem fetch_of_written {s : State} (h : s.pc.toNat ∈ s.pmWritten) :
    fetch s = .refused (.writtenWordFetched s.pc) :=
  if_pos h

theorem fetch_of_unmapped {s : State} (hunwritten : s.pc.toNat ∉ s.pmWritten)
    (hunmapped : s.map.pmMapped s.pc = false) : fetch s = .fault (.fetchUnmapped s.pc) := by
  rw [fetch, if_neg hunwritten, if_neg (by simp [hunmapped])]

theorem fetch_of_unplaced {s : State} (hunwritten : s.pc.toNat ∉ s.pmWritten)
    (hmapped : s.map.pmMapped s.pc = true) (hnone : s.pm.lookup s.pc.toNat = none) :
    fetch s = .fault (.fetchUnwritten s.pc) := by
  rw [fetch, if_neg hunwritten, if_pos hmapped, hnone]

theorem stepWith_of_fetch_fault {s : State} {e : Fault} (p : Parameters) (h : fetch s = .fault e) :
    stepWith p s = .fault e := by
  rw [stepWith, h, thenDo_fault]

theorem stepWith_of_fetch_refused {s : State} {e : Refusal} (p : Parameters) (h : fetch s = .refused e) :
    stepWith p s = .refused e := by
  rw [stepWith, h, thenDo_refused]

theorem decodedWith_of_error {p : Parameters} {w : Word24} {e : DecodeError} (h : p.encoding.decode w = .error e) :
    decodedWith p w = .refused (.undecodable e) := by
  rw [decodedWith, h]

theorem stepWith_of_undecodable {p : Parameters} {s : State} {w : Word24} {e : DecodeError}
    (hfetch : fetch s = .next w) (hdecode : p.encoding.decode w = .error e) :
    stepWith p s = .refused (.undecodable e) := by
  rw [stepWith, hfetch, thenDo_next, decodedWith_of_error hdecode, thenDo_refused]

theorem step_of_written {s : State} (h : s.pc.toNat ∈ s.pmWritten) :
    step s = .refused (.writtenWordFetched s.pc) :=
  stepWith_of_fetch_refused Parameters.named (fetch_of_written h)

/-- Settles O43: three stops are the fetch's own, the fourth the decoder's. -/
theorem fetchStopsByName : Obligations.FetchStopsByName := by
  intro s
  refine ⟨step_of_written, ?_, ?_, ?_⟩
  · intro hunwritten hunmapped
    exact stepWith_of_fetch_fault Parameters.named (fetch_of_unmapped hunwritten hunmapped)
  · intro hunwritten hmapped hnone
    exact stepWith_of_fetch_fault Parameters.named (fetch_of_unplaced hunwritten hmapped hnone)
  · intro w e hunwritten hmapped hheld hdecode
    exact stepWith_of_undecodable (p := Parameters.named)
      ((fetch_eq_next s w).mpr ⟨hunwritten, hmapped, hheld⟩) hdecode

/-! ### A written word stays recorded (R44) -/

theorem step_keeps_written {s t : State} {a : Nat} (h : step s = .next t) (ha : a ∈ s.pmWritten) :
    a ∈ t.pmWritten := by
  obtain hsame | ⟨b, v, hdm⟩ | ⟨b, v, hpm⟩ := step_memories_cases h
  · rwa [hsame.pmWritten]
  · rwa [hdm.pmWritten]
  · rw [hpm.pmWritten]
    exact (mem_recordAddress s.pmWritten b.toNat a).mpr (.inr ha)

theorem reaches_keeps_written {s t : State} {a : Nat} (h : Reaches s t) (ha : a ∈ s.pmWritten) :
    a ∈ t.pmWritten := by
  induction h with
  | refl => exact ha
  | tail _ hstep ih => exact step_keeps_written hstep ih

theorem execPmiW_mem_pmWritten {d : DataReg} {i j : RegNo} {s t : State} (h : exec (.pmiW d i j) s = .next t)
    (a : Nat) : a ∈ t.pmWritten ↔ a = s.i[i].toNat ∨ a ∈ s.pmWritten := by
  have hrecord : t.pmWritten = recordAddress s.pmWritten s.i[i].toNat := by
    simp [exec_next_eq_effect h, effect]
  rw [hrecord, mem_recordAddress]

/-- Settles O44: the write records its address, no later step forgets it, and a recorded address is not fetched. -/
theorem writtenWordIsNeverFetched : Obligations.WrittenWordIsNeverFetched := by
  intro d i j s t hwrite
  refine ⟨execPmiW_mem_pmWritten hwrite, fun u hreach hpc => ?_⟩
  have hrecorded : s.i[i].toNat ∈ u.pmWritten :=
    reaches_keeps_written hreach ((execPmiW_mem_pmWritten hwrite _).mpr (.inl rfl))
  rw [← hpc] at hrecorded ⊢
  exact step_of_written hrecorded

/-! ### Accesses to unmapped addresses (R33) -/

theorem readDm_of_unmapped {a : Word14} {s : State} (h : s.map.dmMapped a = false) :
    readDm a s = .fault (.dmUnmapped a) :=
  if_neg (by simp [h])

theorem writeDm_of_unmapped {a : Word14} {s : State} (v : Word16) (h : s.map.dmMapped a = false) :
    writeDm a v s = .fault (.dmUnmapped a) :=
  if_neg (by simp [h])

theorem readPm_of_unmapped {a : Word14} {s : State} (h : s.map.pmMapped a = false) :
    readPm a s = .fault (.pmUnmapped a) :=
  if_neg (by simp [h])

theorem writePm_of_unmapped {a : Word14} {s : State} (v : Word24) (h : s.map.pmMapped a = false) :
    writePm a v s = .fault (.pmUnmapped a) :=
  if_neg (by simp [h])

/-- Settles O36: the access is the first part of a direct statement, and of an indirect one the first after its
address, which a legal pair has. -/
theorem unmappedAccessIsStuck : Obligations.UnmappedAccessIsStuck := by
  refine ⟨?_, ?_, ?_⟩
  · intro r a s hunmapped
    simp only [exec, execDmdR, execDmdW, readDm_of_unmapped hunmapped, writeDm_of_unmapped _ hunmapped, thenDo_fault,
      and_self]
  · intro d i j s hpair hunmapped
    have haddr : dmAddress i j s = .next (outAddr i s) := (dmAddress_eq_next i j s _).mpr ⟨hpair, rfl⟩
    simp only [exec, execDmiR, execDmiW, haddr, thenDo_next, readDm_of_unmapped hunmapped,
      writeDm_of_unmapped _ hunmapped, thenDo_fault, and_self]
  · intro d i j s hpair hunmapped
    have haddr : pmAddress i j s = .next s.i[i] := (pmAddress_eq_next i j s _).mpr ⟨hpair, rfl⟩
    simp only [exec, execPmiR, execPmiW, haddr, thenDo_next, readPm_of_unmapped hunmapped,
      writePm_of_unmapped _ hunmapped, thenDo_fault, and_self]

end Sys2Proof.Machine
end

section
/-! Proofs of the statements about the encoding (spec/30_encoding.md section 6): the rows of R65 exclude each other,
and the candidate's decoder and encoder are inverse to each other on well-formed instructions. -/

namespace Sys2Proof

open Sys2Proof.Machine Sys2Proof.Laws

/-! ### Results that are accepted -/

theorem except_map_eq_ok {ε α β : Type} (f : α → β) (x : Except ε α) (b : β) :
    x.map f = .ok b ↔ ∃ a, x = .ok a ∧ f a = b := by
  cases x <;> simp [Except.map]

theorem except_bind_eq_ok {ε α β : Type} (x : Except ε α) (k : α → Except ε β) (b : β) :
    x.bind k = .ok b ↔ ∃ a, x = .ok a ∧ k a = .ok b := by
  cases x <;> simp [Except.bind]

/-! ### Words put together from fields -/

theorem exists_append {m n : Nat} (x : BitVec (m + n)) : ∃ (hi : BitVec m) (lo : BitVec n), x = hi ++ lo :=
  ⟨x.extractLsb' n m, x.extractLsb' 0 n, BitVec.extractLsb'_append_extractLsb'.symm⟩

theorem append_eq_append_iff {m n : Nat} (a c : BitVec m) (b d : BitVec n) : a ++ b = c ++ d ↔ a = c ∧ b = d := by
  constructor
  · intro h
    have hhi := congrArg (BitVec.extractLsb' n m) h
    have hlo := congrArg (BitVec.extractLsb' 0 n) h
    simp only [BitVec.extractLsb'_append_eq_left] at hhi
    simp only [BitVec.extractLsb'_append_eq_right] at hlo
    exact ⟨hhi, hlo⟩
  · rintro ⟨rfl, rfl⟩
    rfl

/-- A row whose mask leaves the low bits free speaks of the leading bits alone. -/
theorem exists_append_of_and_eq {m n : Nat} {w : BitVec (m + n)} {mask pattern : BitVec m}
    (h : w &&& (mask ++ 0#n) = pattern ++ 0#n) :
    ∃ (hi : BitVec m) (lo : BitVec n), w = hi ++ lo ∧ hi &&& mask = pattern := by
  obtain ⟨hi, lo, rfl⟩ := exists_append w
  rw [BitVec.and_append, append_eq_append_iff] at h
  obtain ⟨hhi, -⟩ := h
  exact ⟨hi, lo, rfl, hhi⟩

/-- The same for a mask that holds every leading bit. -/
theorem exists_append_of_and_allOnes_eq {m n : Nat} {w : BitVec (m + n)} {pattern : BitVec m}
    (h : w &&& (BitVec.allOnes m ++ 0#n) = pattern ++ 0#n) : ∃ lo : BitVec n, w = pattern ++ lo := by
  obtain ⟨hi, lo, rfl, hhi⟩ := exists_append_of_and_eq h
  rw [BitVec.and_allOnes] at hhi
  exact ⟨lo, by rw [hhi]⟩

/-! ### Register codes (R64) -/

@[simp] theorem dataRegAt_code (d : DataReg) : dataRegAt d.code = d := by
  cases d <;> rfl

@[simp] theorem code_dataRegAt : ∀ n : BitVec 4, (dataRegAt n).code = n := by decide

@[simp] theorem dagOf_regNoOf (g : Dag) (n : BitVec 2) : Dag.of (regNoOf g n) = g := by
  cases g with
  | dag1 => exact (dagOf_eq_dag1_iff _).mpr n.isLt
  | dag2 => exact (dagOf_eq_dag2_iff _).mpr (Nat.le_add_left 4 n.toNat)

@[simp] theorem numberInDag_regNoOf (g : Dag) : ∀ n : BitVec 2, numberInDag (regNoOf g n) = n := by
  cases g <;> decide

theorem regNoOf_numberInDag : ∀ k : RegNo, regNoOf (Dag.of k) (numberInDag k) = k := by decide

theorem regNoOf_numberInDag_of_dagOf_eq {k : RegNo} {g : Dag} (h : Dag.of k = g) : regNoOf g (numberInDag k) = k := by
  rw [← h, regNoOf_numberInDag]

theorem Dag.group_injective {g h : Dag} (heq : g.group = h.group) : g = h := by
  cases g <;> cases h <;> simp_all [Dag.group]

@[simp] theorem dagAt_selectBit (g : Dag) : dagAt g.selectBit = g := by
  cases g <;> rfl

theorem exists_selectBit_eq (b : BitVec 1) : ∃ g : Dag, g.selectBit = b := by
  obtain rfl | rfl : b = 0 ∨ b = 1 := by revert b; decide
  · exact ⟨.dag1, rfl⟩
  · exact ⟨.dag2, rfl⟩

/-- The groups of R64: the data registers, one group for each DAG, the control registers. -/
theorem group_cases (g : BitVec 2) : g = 0 ∨ (∃ d : Dag, g = d.group) ∨ g = 3 := by
  obtain rfl | rfl | rfl | rfl : g = 0 ∨ g = 1 ∨ g = 2 ∨ g = 3 := by revert g; decide
  · exact .inl rfl
  · exact .inr (.inl ⟨.dag1, rfl⟩)
  · exact .inr (.inl ⟨.dag2, rfl⟩)
  · exact .inr (.inr rfl)

theorem append_low_of_kind {n : BitVec 4} (kind : BitVec 2) (h : (n.extractLsb' 2 2).toNat = kind.toNat) :
    kind ++ n.extractLsb' 0 2 = n := by
  rw [← BitVec.eq_of_toNat_eq h]
  exact BitVec.extractLsb'_append_extractLsb'

/-- A code of a DAG's group stands for the one register that is written with it. -/
theorem dagRegAt_eq_ok (g : Dag) (n : BitVec 4) (r : DagReg) :
    dagRegAt g n = .ok r ↔ r.code = (g.group, n) := by
  constructor
  · intro h
    unfold dagRegAt at h
    split at h
    case h_1 hkind => cases h; simpa [DagReg.code] using append_low_of_kind 0 hkind
    case h_2 hkind => cases h; simpa [DagReg.code] using append_low_of_kind 1 hkind
    case h_3 hkind => cases h; simpa [DagReg.code] using append_low_of_kind 2 hkind
    case h_4 => cases h
  · intro h
    cases r with
    | i k | m k | l k =>
      obtain ⟨hgroup, rfl⟩ := Prod.mk.inj h
      obtain rfl := Dag.group_injective hgroup
      simp only [dagRegAt, BitVec.extractLsb'_append_eq_left, BitVec.extractLsb'_append_eq_right, regNoOf_numberInDag]
      rfl

theorem controlRegAt_eq_ok (n : BitVec 4) (r : Reg) : controlRegAt n = .ok r ↔ r = .px ∧ n = 7 := by
  constructor
  · intro h
    unfold controlRegAt at h
    split at h <;> cases h
    case h_2 hn => exact ⟨rfl, BitVec.eq_of_toNat_eq hn⟩
  · rintro ⟨rfl, rfl⟩
    rfl

theorem regAt_group (g : Dag) (n : BitVec 4) : regAt g.group n = (dagRegAt g n).map .dag := by
  cases g <;> rfl

theorem ldiRegAt_group (g : Dag) (n : BitVec 4) : ldiRegAt g.group n = dagRegAt g n := by
  cases g <;> rfl

theorem DagReg.exists_code_eq (r : DagReg) : ∃ (g : Dag) (n : BitVec 4), r.code = (g.group, n) := by
  cases r <;> exact ⟨_, _, rfl⟩

/-- The codes of LDI's destination are those of DAGREG. -/
theorem ldiRegAt_eq_ok (g : BitVec 2) (n : BitVec 4) (r : DagReg) : ldiRegAt g n = .ok r ↔ r.code = (g, n) := by
  constructor
  · intro h
    obtain rfl | ⟨d, rfl⟩ | rfl := group_cases g
    · cases h
    · exact (dagRegAt_eq_ok d n r).mp (ldiRegAt_group d n ▸ h)
    · cases h
  · intro h
    obtain ⟨d, k, hcode⟩ := r.exists_code_eq
    cases hcode.symm.trans h
    rw [ldiRegAt_group, (dagRegAt_eq_ok d n r).mpr hcode]

/-- The codes of REG: each stands for the one register that is written with it. -/
theorem regAt_eq_ok (g : BitVec 2) (n : BitVec 4) (r : Reg) : regAt g n = .ok r ↔ r.code = (g, n) := by
  constructor
  · intro h
    obtain rfl | ⟨d, rfl⟩ | rfl := group_cases g
    · cases h
      exact congrArg (Prod.mk 0) (code_dataRegAt n)
    · rw [regAt_group, except_map_eq_ok] at h
      obtain ⟨q, hq, rfl⟩ := h
      exact (dagRegAt_eq_ok d n q).mp hq
    · obtain ⟨rfl, rfl⟩ := (controlRegAt_eq_ok n r).mp h
      rfl
  · intro h
    cases r with
    | data d =>
      cases h
      exact congrArg (Except.ok ∘ Reg.data) (dataRegAt_code d)
    | dag q =>
      obtain ⟨d, k, hcode⟩ := q.exists_code_eq
      cases hcode.symm.trans h
      rw [regAt_group, (dagRegAt_eq_ok d n q).mpr hcode]
      rfl
    | px =>
      cases h
      rfl

/-! ### Legal pairs by their DAGs (R53) -/

theorem dmPairOk_iff_dagOf_eq (i j : RegNo) : dmPairOk i j = true ↔ Dag.of i = Dag.of j :=
  decide_eq_true_iff

theorem pmPairOk_iff_dagOf_eq (i j : RegNo) : pmPairOk i j = true ↔ Dag.of i = .dag2 ∧ Dag.of j = .dag2 := by
  rw [pmPairOk, Bool.and_eq_true, decide_eq_true_iff, decide_eq_true_iff]

/-! ### Operand fields (R63) -/

theorem exists_directFields_eq (x : BitVec 20) : ∃ code c, directFields code c = x := by
  obtain ⟨hi, number, rfl⟩ := exists_append (m := 16) (n := 4) x
  obtain ⟨group, c, rfl⟩ := exists_append (m := 2) (n := 14) hi
  exact ⟨(group, number), c, rfl⟩

theorem exists_moveFields_eq (x : BitVec 12) : ∃ dst src, moveFields dst src = x := by
  obtain ⟨hi, srcNumber, rfl⟩ := exists_append (m := 8) (n := 4) x
  obtain ⟨groups, dstNumber, rfl⟩ := exists_append (m := 4) (n := 4) hi
  obtain ⟨dstGroup, srcGroup, rfl⟩ := exists_append (m := 2) (n := 2) groups
  exact ⟨(dstGroup, dstNumber), (srcGroup, srcNumber), rfl⟩

/-- The indirect forms have no operand byte to spare: in either DAG each one is that of a pair. -/
theorem exists_indirectFields_eq (g : Dag) (x : BitVec 8) :
    ∃ d i j, Dag.of i = g ∧ Dag.of j = g ∧ indirectFields d i j = x := by
  obtain ⟨hi, mm, rfl⟩ := exists_append (m := 6) (n := 2) x
  obtain ⟨data, ii, rfl⟩ := exists_append (m := 4) (n := 2) hi
  exact ⟨dataRegAt data, regNoOf g ii, regNoOf g mm, dagOf_regNoOf g ii, dagOf_regNoOf g mm,
    by simp [indirectFields]⟩

/-- Each field read back from LDI's or a direct access's word. -/
theorem extract_directFields (opcode : BitVec 4) (code : BitVec 2 × BitVec 4) (c : Word14) :
    let w := opcode ++ directFields code c
    w.extractLsb' 18 2 = code.1 ∧ w.extractLsb' 4 14 = c ∧ w.extractLsb' 0 4 = code.2 := by
  simp (disch := decide) only [directFields, BitVec.extractLsb'_append_eq_of_le,
    BitVec.extractLsb'_append_eq_of_add_le, BitVec.extractLsb'_eq_self, Nat.reduceSub, and_self]

/-- Each field read back from a move's word. -/
theorem extract_moveFields (opcode : BitVec 12) (dst src : BitVec 2 × BitVec 4) :
    let w := opcode ++ moveFields dst src
    w.extractLsb' 10 2 = dst.1 ∧ w.extractLsb' 8 2 = src.1 ∧ w.extractLsb' 4 4 = dst.2 ∧
      w.extractLsb' 0 4 = src.2 := by
  simp (disch := decide) only [moveFields, BitVec.extractLsb'_append_eq_of_le,
    BitVec.extractLsb'_append_eq_of_add_le, BitVec.extractLsb'_eq_self, Nat.reduceSub, and_self]

/-- Each operand nibble and pair read back from an indirect access's word. -/
theorem extract_indirectFields {n : Nat} (opcode : BitVec n) (d : DataReg) (i j : RegNo) :
    let w := opcode ++ indirectFields d i j
    w.extractLsb' 4 4 = d.code ∧ w.extractLsb' 2 2 = numberInDag i ∧ w.extractLsb' 0 2 = numberInDag j := by
  simp (disch := decide) only [indirectFields, BitVec.extractLsb'_append_eq_of_le,
    BitVec.extractLsb'_append_eq_of_add_le, BitVec.extractLsb'_eq_self, Nat.reduceSub, and_self]

/-- Bit 20 read back from an indirect data-memory access's word. -/
theorem extract_selectBit (opcode : BitVec 3) (b : BitVec 1) (x : BitVec 12) (y : BitVec 8) :
    (opcode ++ b ++ x ++ y).extractLsb' 20 1 = b := by
  simp (disch := decide) only [BitVec.extractLsb'_append_eq_of_le, BitVec.extractLsb'_append_eq_of_add_le,
    BitVec.extractLsb'_eq_self, Nat.reduceSub]

/-! ### What the decoder reads from words of each layout -/

theorem decodeFields_ldi_eq_ok (opcode : BitVec 4) (code : BitVec 2 × BitVec 4) (c : Word14) (f : Instr) :
    decodeFields .ldi (opcode ++ directFields code c) = .ok f ↔ ∃ r, r.code = code ∧ .ldi r c = f := by
  simp only [decodeFields, extract_directFields, except_map_eq_ok, ldiRegAt_eq_ok]

theorem decodeFields_dmdR_eq_ok (opcode : BitVec 4) (code : BitVec 2 × BitVec 4) (a : Word14) (f : Instr) :
    decodeFields .dmdR (opcode ++ directFields code a) = .ok f ↔ ∃ r, r.code = code ∧ .dmdR r a = f := by
  simp only [decodeFields, extract_directFields, except_map_eq_ok, regAt_eq_ok]

theorem decodeFields_dmdW_eq_ok (opcode : BitVec 4) (code : BitVec 2 × BitVec 4) (a : Word14) (f : Instr) :
    decodeFields .dmdW (opcode ++ directFields code a) = .ok f ↔ ∃ r, r.code = code ∧ .dmdW r a = f := by
  simp only [decodeFields, extract_directFields, except_map_eq_ok, regAt_eq_ok]

theorem decodeFields_mov_eq_ok (opcode : BitVec 12) (dst src : BitVec 2 × BitVec 4) (f : Instr) :
    decodeFields .mov (opcode ++ moveFields dst src) = .ok f ↔ ∃ p q, p.code = dst ∧ q.code = src ∧ .mov p q = f := by
  have hdst (p : Reg) : p.code = dst ↔ regAt dst.1 dst.2 = .ok p := (regAt_eq_ok dst.1 dst.2 p).symm
  have hsrc (q : Reg) : q.code = src ↔ regAt src.1 src.2 = .ok q := (regAt_eq_ok src.1 src.2 q).symm
  simp only [decodeFields, extract_moveFields, hdst, hsrc]
  cases regAt dst.1 dst.2 <;> cases regAt src.1 src.2 <;> simp

/-! ### Decoding what was encoded -/

/-- The word the encoder writes is of the instruction's own row of R65. -/
theorem formatOf_encode (f : Instr) : formatOf (encode f) = some f.format := by
  cases f with
  | ldi r c => exact EncodedRow.ldi r c
  | dmdR r a => exact EncodedRow.dmdR r a
  | dmdW r a => exact EncodedRow.dmdW r a
  | dmiR d i j => exact EncodedRow.dmiR d i j
  | dmiW d i j => exact EncodedRow.dmiW d i j
  | mov dst src => exact EncodedRow.mov dst src
  | enaBr => exact EncodedRow.enaBr
  | disBr => exact EncodedRow.disBr
  | pmiR d i j => exact EncodedRow.pmiR d i j
  | pmiW d i j => exact EncodedRow.pmiW d i j

theorem decodeFields_encode {f : Instr} (hwf : f.wf = true) : decodeFields f.format (encode f) = .ok f := by
  cases f with
  | ldi r c => exact (decodeFields_ldi_eq_ok _ r.code c _).mpr ⟨r, rfl, rfl⟩
  | dmdR r a => exact (decodeFields_dmdR_eq_ok _ r.code a _).mpr ⟨r, rfl, rfl⟩
  | dmdW r a => exact (decodeFields_dmdW_eq_ok _ r.code a _).mpr ⟨r, rfl, rfl⟩
  | mov dst src => exact (decodeFields_mov_eq_ok _ dst.code src.code _).mpr ⟨dst, src, rfl, rfl, rfl⟩
  | enaBr | disBr => rfl
  | dmiR d i j | dmiW d i j =>
    have hpair : Dag.of j = Dag.of i := ((dmPairOk_iff_dagOf_eq i j).mp hwf).symm
    simp only [Instr.format, encode, decodeFields, extract_indirectFields, extract_selectBit, dataRegAt_code,
      dagAt_selectBit, regNoOf_numberInDag, regNoOf_numberInDag_of_dagOf_eq hpair]
  | pmiR d i j | pmiW d i j =>
    obtain ⟨hi, hj⟩ := (pmPairOk_iff_dagOf_eq i j).mp hwf
    simp only [Instr.format, encode, decodeFields, extract_indirectFields, dataRegAt_code,
      regNoOf_numberInDag_of_dagOf_eq hi, regNoOf_numberInDag_of_dagOf_eq hj]

/-- Settles O48: the word is of the instruction's row, and every field reads back. -/
theorem decodeEncodeRoundTrip : Obligations.DecodeEncodeRoundTrip := by
  intro f hwf
  rw [decode, formatOf_encode]
  exact decodeFields_encode hwf

/-! ### Encoding what was decoded -/

/-- A word that decodes matches a row of R65 and decodes by that row's format. -/
theorem exists_row_of_decode {w : Word24} {f : Instr} (h : decode w = .ok f) :
    ∃ row ∈ opcodeRows, w &&& row.mask = row.pattern ∧ decodeFields row.format w = .ok f := by
  unfold decode formatOf at h
  cases hfind : opcodeRows.find? fun r => w &&& r.mask == r.pattern with
  | none =>
    rw [hfind] at h
    cases h
  | some row =>
    rw [hfind] at h
    exact ⟨row, List.mem_of_find?_eq_some hfind, by simpa using List.find?_some hfind, h⟩

/-- What has to be shown of a row: a word of it that decodes is the word of a well-formed instruction. -/
def DecodesOnlyEncodings (row : OpcodeRow) : Prop :=
  ∀ (w : Word24) (f : Instr), w &&& row.mask = row.pattern → decodeFields row.format w = .ok f →
    ∃ g : Instr, g.wf = true ∧ encode g = w

/-- The rows that fix the leading nibble alone leave the operand fields of LDI and the direct accesses. -/
theorem exists_directFields_of_and_eq {w : Word24} {opcode : BitVec 4} (h : w &&& 0xF00000 = opcode ++ 0#20) :
    ∃ code c, w = opcode ++ directFields code c := by
  obtain ⟨x, rfl⟩ := exists_append_of_and_allOnes_eq (m := 4) (n := 20) h
  obtain ⟨code, c, rfl⟩ := exists_directFields_eq x
  exact ⟨code, c, rfl⟩

theorem decodesOnlyEncodings_ldi : DecodesOnlyEncodings ⟨.ldi, 0x300000, 0xF00000⟩ := by
  intro w f hrow hdecode
  obtain ⟨code, c, rfl⟩ := exists_directFields_of_and_eq (opcode := 3#4) hrow
  obtain ⟨r, rfl, -⟩ := (decodeFields_ldi_eq_ok _ code c f).mp hdecode
  exact ⟨.ldi r c, rfl, rfl⟩

theorem decodesOnlyEncodings_dmdR : DecodesOnlyEncodings ⟨.dmdR, 0x800000, 0xF00000⟩ := by
  intro w f hrow hdecode
  obtain ⟨code, a, rfl⟩ := exists_directFields_of_and_eq (opcode := 8#4) hrow
  obtain ⟨r, rfl, -⟩ := (decodeFields_dmdR_eq_ok _ code a f).mp hdecode
  exact ⟨.dmdR r a, rfl, rfl⟩

theorem decodesOnlyEncodings_dmdW : DecodesOnlyEncodings ⟨.dmdW, 0x900000, 0xF00000⟩ := by
  intro w f hrow hdecode
  obtain ⟨code, a, rfl⟩ := exists_directFields_of_and_eq (opcode := 9#4) hrow
  obtain ⟨r, rfl, -⟩ := (decodeFields_dmdW_eq_ok _ code a f).mp hdecode
  exact ⟨.dmdW r a, rfl, rfl⟩

theorem decodesOnlyEncodings_mov : DecodesOnlyEncodings ⟨.mov, 0x0D0000, 0xFFF000⟩ := by
  intro w f hrow hdecode
  obtain ⟨x, rfl⟩ := exists_append_of_and_allOnes_eq (m := 12) (n := 12) (pattern := 0x0D0#12) hrow
  obtain ⟨dst, src, rfl⟩ := exists_moveFields_eq x
  obtain ⟨p, q, rfl, rfl, -⟩ := (decodeFields_mov_eq_ok _ dst src f).mp hdecode
  exact ⟨.mov p q, rfl, rfl⟩

theorem decodesOnlyEncodings_enaBr : DecodesOnlyEncodings ⟨.enaBr, 0x0C00C0, 0xFFFFFF⟩ := by
  intro w f hrow _
  exact ⟨.enaBr, rfl, hrow.symm.trans BitVec.and_allOnes⟩

theorem decodesOnlyEncodings_disBr : DecodesOnlyEncodings ⟨.disBr, 0x0C0080, 0xFFFFFF⟩ := by
  intro w f hrow _
  exact ⟨.disBr, rfl, hrow.symm.trans BitVec.and_allOnes⟩

/-- The rows of the indirect data-memory accesses leave bit 20 free, which selects the DAG, and the operand byte. -/
theorem exists_selectBit_of_and_eq {w : Word24} {middle : BitVec 12}
    (h : w &&& 0xEFFF00 = 3#3 ++ 0#1 ++ middle ++ 0#8) :
    ∃ (g : Dag) (x : BitVec 8), w = 3#3 ++ g.selectBit ++ middle ++ x := by
  obtain ⟨hi, x, rfl, hhi⟩ := exists_append_of_and_eq (m := 16) (n := 8) (mask := 7#3 ++ 0#1 ++ 0xFFF#12) h
  obtain ⟨top, mid, rfl⟩ := exists_append (m := 4) (n := 12) hi
  obtain ⟨lead, b, rfl⟩ := exists_append (m := 3) (n := 1) top
  obtain ⟨g, rfl⟩ := exists_selectBit_eq b
  rw [BitVec.and_append, BitVec.and_append, append_eq_append_iff, append_eq_append_iff] at hhi
  obtain ⟨⟨hlead, -⟩, hmid⟩ := hhi
  obtain rfl : lead = 3#3 := BitVec.and_allOnes.symm.trans hlead
  obtain rfl : mid = middle := BitVec.and_allOnes.symm.trans hmid
  exact ⟨g, x, rfl⟩

theorem decodesOnlyEncodings_dmiR : DecodesOnlyEncodings ⟨.dmiR, 0x600000, 0xEFFF00⟩ := by
  intro w f hrow _
  obtain ⟨g, x, rfl⟩ := exists_selectBit_of_and_eq (middle := 0x000#12) hrow
  obtain ⟨d, i, j, rfl, hj, rfl⟩ := exists_indirectFields_eq g x
  exact ⟨.dmiR d i j, (dmPairOk_iff_dagOf_eq i j).mpr hj.symm, rfl⟩

theorem decodesOnlyEncodings_dmiW : DecodesOnlyEncodings ⟨.dmiW, 0x680000, 0xEFFF00⟩ := by
  intro w f hrow _
  obtain ⟨g, x, rfl⟩ := exists_selectBit_of_and_eq (middle := 0x800#12) hrow
  obtain ⟨d, i, j, rfl, hj, rfl⟩ := exists_indirectFields_eq g x
  exact ⟨.dmiW d i j, (dmPairOk_iff_dagOf_eq i j).mpr hj.symm, rfl⟩

theorem decodesOnlyEncodings_pmiR : DecodesOnlyEncodings ⟨.pmiR, 0x500000, 0xFFFF00⟩ := by
  intro w f hrow _
  obtain ⟨x, rfl⟩ := exists_append_of_and_allOnes_eq (m := 16) (n := 8) (pattern := 0x5000#16) hrow
  obtain ⟨d, i, j, hi, hj, rfl⟩ := exists_indirectFields_eq .dag2 x
  exact ⟨.pmiR d i j, (pmPairOk_iff_dagOf_eq i j).mpr ⟨hi, hj⟩, rfl⟩

theorem decodesOnlyEncodings_pmiW : DecodesOnlyEncodings ⟨.pmiW, 0x580000, 0xFFFF00⟩ := by
  intro w f hrow _
  obtain ⟨x, rfl⟩ := exists_append_of_and_allOnes_eq (m := 16) (n := 8) (pattern := 0x5800#16) hrow
  obtain ⟨d, i, j, hi, hj, rfl⟩ := exists_indirectFields_eq .dag2 x
  exact ⟨.pmiW d i j, (pmPairOk_iff_dagOf_eq i j).mpr ⟨hi, hj⟩, rfl⟩

theorem opcodeRows_decodesOnlyEncodings : ∀ row ∈ opcodeRows, DecodesOnlyEncodings row := by
  simp only [opcodeRows, List.forall_mem_cons]
  exact ⟨decodesOnlyEncodings_ldi, decodesOnlyEncodings_dmdR, decodesOnlyEncodings_dmdW, decodesOnlyEncodings_dmiR,
    decodesOnlyEncodings_dmiW, decodesOnlyEncodings_pmiR, decodesOnlyEncodings_pmiW, decodesOnlyEncodings_mov,
    decodesOnlyEncodings_enaBr, decodesOnlyEncodings_disBr, List.forall_mem_nil _⟩

/-- Settles O49: the word is that of some well-formed instruction, which by the round trip is the decoded one. -/
theorem decodedWordIsItsEncoding : Obligations.DecodedWordIsItsEncoding := by
  intro w f hdecode
  obtain ⟨row, hmem, hrow, hfields⟩ := exists_row_of_decode hdecode
  obtain ⟨g, hwf, rfl⟩ := opcodeRows_decodesOnlyEncodings row hmem w f hrow hfields
  have hsame : g = f := Except.ok.inj ((decodeEncodeRoundTrip g hwf).symm.trans hdecode)
  exact hsame ▸ ⟨hwf, rfl⟩

/-! ### The rows of R65 -/

/-- Two rows that share a word agree wherever both look. -/
theorem pattern_and_mask_eq {w p q m n : Word24} (hp : w &&& m = p) (hq : w &&& n = q) : p &&& n = q &&& m := by
  rw [← hp, ← hq, BitVec.and_assoc, BitVec.and_assoc, BitVec.and_comm m n]

theorem opcodeRows_disagree :
    ∀ p ∈ opcodeRows, ∀ q ∈ opcodeRows, p.pattern &&& q.mask = q.pattern &&& p.mask → p = q := by
  decide

/-- Settles O50: different rows of the table disagree on a bit that both fix. -/
theorem opcodeRowsDoNotOverlap : Obligations.OpcodeRowsDoNotOverlap := by
  intro w p q hp hq hpw hqw
  exact opcodeRows_disagree p hp q hq (pattern_and_mask_eq hpw hqw)

/-! ### The source's own statements (R66) -/

/-- The decoder's answer for a word that is known as an instruction's encoding. -/
theorem decode_of_encode_eq {w : Word24} {f : Instr} (hwf : f.wf = true) (h : encode f = w) : decode w = .ok f :=
  h ▸ decodeEncodeRoundTrip f hwf

/-- Settles O51: each word is the encoding of its statement, so the round trip decodes it. -/
theorem exampleWordsDecode : Obligations.ExampleWordsDecode := by
  refine ⟨?_, ?_, ?_, ?_, ?_, ?_, ?_, ?_, ?_⟩ <;> exact decode_of_encode_eq rfl rfl

end Sys2Proof
end

section
/-! Proofs of the statements about arrays and about what the assembler and the machine accept (spec/30_encoding.md
sections 2 to 5): the base of a circular array, pairs of registers, data registers outside DREG, constants and
addresses, and the well-formedness of what a text yields. -/

namespace Sys2Proof.Machine

/-! ### Circular arrays (R57, R76, R77) -/

/-- The exponent of R77 covers every length that the 14-bit space can hold. -/
theorem le_two_pow_bufferExponent {l : Nat} (h : l ≤ 2 ^ 14) : l ≤ 2 ^ bufferExponent l := by
  unfold bufferExponent
  cases hfind : (List.range 15).find? (fun n => decide (l ≤ 2 ^ n)) with
  | none => exact h
  | some n => simpa using List.find?_some hfind

/-- A multiple of 2^n is the base formed from every address less than 2^n past it. -/
theorem bufferBase_eq_of_inBuffer {a b l : Nat} (hl : l ≤ 2 ^ bufferExponent l) (hb : 2 ^ bufferExponent l ∣ b)
    (ha : InBuffer a b l) : bufferBase a l = b := by
  obtain ⟨hbase, hend⟩ := ha
  obtain ⟨k, rfl⟩ := Nat.exists_eq_add_of_le hbase
  have hk : k < 2 ^ bufferExponent l := by omega
  rw [bufferBase, Nat.add_mod, Nat.mod_eq_zero_of_dvd hb, Nat.zero_add, Nat.mod_mod, Nat.mod_eq_of_lt hk,
    Nat.add_sub_cancel]

theorem ArrayDecl.dvd_base_of_placed {d : ArrayDecl} (hplaced : d.placed = true) (hcirc : d.circ = true) :
    2 ^ bufferExponent d.length ∣ d.base := by
  simp only [ArrayDecl.placed, hcirc, Bool.not_true, Bool.false_or, Bool.and_eq_true, decide_eq_true_iff] at hplaced
  obtain ⟨-, hbase⟩ := hplaced
  exact Nat.dvd_of_mod_eq_zero hbase

/-- Settles O24: the linker's base is a multiple of 2^n, and the array is no longer than that. -/
theorem circularArrayBaseIsItsOwn : Obligations.CircularArrayBaseIsItsOwn := by
  intro d a hplaced hcirc hlength ha
  exact bufferBase_eq_of_inBuffer (le_two_pow_bufferExponent hlength.le)
    (ArrayDecl.dvd_base_of_placed hplaced hcirc) ha

/-! ### Pairs that are refused (R16, R53) -/

theorem dmAddress_of_cross {i j : RegNo} (s : State) (h : Dag.of i ≠ Dag.of j) :
    dmAddress i j s = .refused .crossDagPair :=
  if_neg fun hok => h ((dmPairOk_iff_dagOf_eq i j).mp hok)

theorem pmAddress_of_cross {i j : RegNo} (s : State) (h : Dag.of i ≠ Dag.of j) :
    pmAddress i j s = .refused .crossDagPair := by
  have hdm : ¬ dmPairOk i j = true := fun hok => h ((dmPairOk_iff_dagOf_eq i j).mp hok)
  have hpm : ¬ pmPairOk i j = true := fun hok => by
    obtain ⟨hi, hj⟩ := (pmPairOk_iff_dagOf_eq i j).mp hok
    exact h (hi.trans hj.symm)
  rw [pmAddress, if_neg hpm, if_neg hdm]

theorem pmAddress_of_dag1 {i j : RegNo} (s : State) (hi : Dag.of i = .dag1) (hj : Dag.of j = .dag1) :
    pmAddress i j s = .refused .pmNeedsDag2 := by
  have hdm : dmPairOk i j = true := (dmPairOk_iff_dagOf_eq i j).mpr (hi.trans hj.symm)
  have hpm : ¬ pmPairOk i j = true := by simp [pmPairOk, hi]
  rw [pmAddress, if_neg hpm, if_pos hdm]

/-- What the assembler accepts as a pair (R53). -/
theorem pairNamed_ok {sp : Space} {x y : String} {i j : RegNo} (h : pairNamed sp x y = .ok (i, j)) :
    indexNamed x = .ok i ∧ modifyNamed y = .ok j ∧ dmPairOk i j = true ∧ (sp = .pm → pmPairOk i j = true) := by
  unfold pairNamed at h
  split at h
  case h_1 hi hj =>
    split at h
    case isTrue => cases h
    case isFalse hdm =>
      split at h
      case isTrue => cases h
      case isFalse hpm =>
        cases h
        exact ⟨hi, hj, by simpa using hdm, by simpa using hpm⟩
  all_goals cases h

/-- Settles O37: an indirect statement begins with its address, which the two kinds of illegal pair do not have. -/
theorem illegalPairsAreRefused : Obligations.IllegalPairsAreRefused := by
  refine ⟨?_, ?_, ?_⟩
  · intro d i j s hcross
    simp only [exec, execDmiR, execDmiW, execPmiR, execPmiW, dmAddress_of_cross s hcross,
      pmAddress_of_cross s hcross, thenDo_refused, and_self]
  · intro d i j s hi hj
    simp only [exec, execPmiR, execPmiW, pmAddress_of_dag1 s hi hj, thenDo_refused, and_self]
  · intro sp x y i j h
    obtain ⟨hi, hj, hdm, hpm⟩ := pairNamed_ok h
    refine ⟨hi, hj, (dmPairOk_iff_dagOf_eq i j).mp hdm, fun hsp => ?_⟩
    obtain ⟨hdag2, -⟩ := (pmPairOk_iff_dagOf_eq i j).mp (hpm hsp)
    exact hdag2

/-! ### Data registers outside DREG (R6, R61) -/

theorem admittedBy_iff (dreg : List DataReg) (f : Instr) :
    f.admittedBy dreg = true ↔ ∀ d ∈ f.dataRegs, d ∈ dreg := by
  simp only [Instr.admittedBy, List.all_eq_true, decide_eq_true_iff]

theorem decodedWith_of_not_admitted {p : Parameters} {w : Word24} {f : Instr} (hdecode : p.encoding.decode w = .ok f)
    (h : ¬ f.admittedBy p.dreg = true) : decodedWith p w = .refused (.undecodable .outsideDreg) := by
  rw [decodedWith, hdecode]
  exact if_neg h

theorem assembleWith_eq_ok (dreg : List DataReg) (t : SymbolTable) (text : String) (program : List Instr) :
    assembleWith dreg t text = .ok program ↔
      assemble t text = .ok program ∧ program.all (·.admittedBy dreg) = true := by
  rw [assembleWith, except_bind_eq_ok]
  constructor
  · rintro ⟨a, ha, h⟩
    split at h
    case isTrue hall => cases h; exact ⟨ha, hall⟩
    case isFalse => cases h
  · rintro ⟨ha, hall⟩
    exact ⟨program, ha, if_pos hall⟩

/-- Settles O42: both the decoder and the assembler ask `admittedBy` of what they read. -/
theorem registersOutsideDregAreRefused : Obligations.RegistersOutsideDregAreRefused := by
  constructor
  · intro p s w f d hfetch hdecode hnamed houtside
    have hrefused := decodedWith_of_not_admitted hdecode fun h => houtside ((admittedBy_iff p.dreg f).mp h d hnamed)
    rw [stepWith, hfetch, thenDo_next, hrefused, thenDo_refused]
  · intro dreg t text program
    simp only [assembleWith_eq_ok, List.all_eq_true, admittedBy_iff]

/-! ### What the assembler yields (R51, R53) -/

theorem both_eq_ok {α β : Type} (f : α → β → Instr) (a : Except AsmError α) (b : Except AsmError β) (g : Instr) :
    both f a b = .ok g ↔ ∃ x y, a = .ok x ∧ b = .ok y ∧ f x y = g := by
  cases a <;> cases b <;> simp [both]

/-- The format that two operands select is well-formed: an indirect one has its pair from `pairNamed`. -/
theorem select_wf {t : SymbolTable} {l r : Operand} {f : Instr} (h : select t l r = .ok f) : f.wf = true := by
  unfold select at h
  split at h
  case h_9 => cases h
  all_goals obtain ⟨x, y, hx, hy, rfl⟩ := (both_eq_ok _ _ _ _).mp h
  case h_1 | h_4 =>
    obtain ⟨-, -, hdm, -⟩ := pairNamed_ok hy
    exact hdm
  case h_2 | h_5 =>
    obtain ⟨-, -, -, hpm⟩ := pairNamed_ok hy
    exact hpm rfl
  all_goals rfl

theorem statementOf_wf {t : SymbolTable} {ts : List Token} {f : Instr} (h : statementOf t ts = .ok f) :
    f.wf = true := by
  unfold statementOf at h
  split at h
  · cases h; rfl
  · cases h; rfl
  · dsimp only at h
    split at h
    · obtain ⟨r, -, hselect⟩ := (except_bind_eq_ok _ _ _).mp h
      exact select_wf hselect
    · cases h
    · cases h

theorem statementsOf_wf {t : SymbolTable} {statements : List (List Token)} {program : List Instr}
    (h : statementsOf t statements = .ok program) : ∀ f ∈ program, f.wf = true := by
  induction statements generalizing program with
  | nil => cases h; simp
  | cons s rest ih =>
    unfold statementsOf at h
    split at h
    case h_1 hstatement hrest =>
      cases h
      exact List.forall_mem_cons.mpr ⟨statementOf_wf hstatement, ih hrest⟩
    all_goals cases h

/-- Settles O53: of the ten shapes only the four indirect ones can be ill-formed, and their pairs come from `pairNamed`,
which refuses what R53 refuses. -/
theorem assembledInstructionsAreWellFormed : Obligations.AssembledInstructionsAreWellFormed := by
  intro t text program h
  obtain ⟨statements, -, hstatements⟩ := (except_bind_eq_ok _ _ _).mp h
  exact statementsOf_wf hstatements

/-! ### Constants and addresses (R54, R55) -/

theorem ofInt14_eq_iff (c : Int) (w : Word14) : BitVec.ofInt 14 c = w ↔ (w.toNat : Int) = c % 16384 := by
  rw [← BitVec.toNat_inj, BitVec.toNat_ofInt]
  omega

theorem constant14_eq_ok (c : Int) (w : Word14) :
    constant14 c = .ok w ↔ (-8192 ≤ c ∧ c ≤ 16383) ∧ (w.toNat : Int) = c % 16384 := by
  unfold constant14
  split
  case isTrue h => simp [h, ofInt14_eq_iff]
  case isFalse h => simp [h]

theorem address14_eq_ok (a : Int) (w : Word14) :
    address14 a = .ok w ↔ (0 ≤ a ∧ a ≤ 16383) ∧ (w.toNat : Int) = a := by
  unfold address14
  split
  case isTrue h =>
    have hmod : a % 16384 = a := by omega
    simp [h, ofInt14_eq_iff, hmod]
  case isFalse h => simp [h]

/-- Settles O52, by the two lemmas that say once what `constant14` and `address14` accept. -/
theorem constantAndAddressRanges : Obligations.ConstantAndAddressRanges :=
  fun c w => ⟨constant14_eq_ok c w, address14_eq_ok c w⟩

end Sys2Proof.Machine
end

section
/-! Proofs of the statements about address generation (spec/40_dag_address_generation.md): the linear and the modulo
next address, the base of a circular buffer, bit-reversed sequences, and what a post-modify writes and leaves alone. -/

namespace Sys2Proof.Machine

/-! ### The base of a circular buffer (R76, R77) -/

/-- A least exponent is no larger than any that covers the length. -/
theorem exponent_le_of_least {l n k : Nat} (hleast : n = 0 ∨ 2 ^ (n - 1) < l) (hcovers : l ≤ 2 ^ k) : n ≤ k := by
  obtain rfl | hlt := hleast
  · exact Nat.zero_le k
  · have hpred : n - 1 < k := (Nat.pow_lt_pow_iff_right Nat.one_lt_two).mp (hlt.trans_le hcovers)
    omega

theorem bufferExponent_least (l : Nat) : bufferExponent l = 0 ∨ 2 ^ (bufferExponent l - 1) < l := by
  unfold bufferExponent
  cases hfind : (List.range 15).find? (fun n => decide (l ≤ 2 ^ n)) with
  | none =>
    have hbeyond := List.find?_eq_none.mp hfind 13 (by decide)
    exact .inr (by simpa using hbeyond)
  | some n =>
    obtain ⟨-, -, hbefore⟩ := List.find?_range_eq_some.mp hfind
    rcases Nat.eq_zero_or_pos n with hzero | hpos
    · exact .inl hzero
    · exact .inr (by simpa using hbefore (n - 1) (Nat.sub_lt hpos Nat.one_pos))

theorem bufferExponent_le {l k : Nat} (hcovers : l ≤ 2 ^ k) : bufferExponent l ≤ k :=
  exponent_le_of_least (bufferExponent_least l) hcovers

/-- The exponent that the rule asks for is the model's, so an allowed base is a multiple of its power of two. -/
theorem baseAllowed_iff_dvd {b l : Nat} (hl : l ≤ 2 ^ 14) : BaseAllowed b l ↔ 2 ^ bufferExponent l ∣ b := by
  have hself := le_two_pow_bufferExponent hl
  constructor
  · rintro ⟨n, hcovers, hleast, hdvd⟩
    have hn : bufferExponent l = n := Nat.le_antisymm (bufferExponent_le hcovers) (exponent_le_of_least hleast hself)
    rwa [hn]
  · intro hdvd
    exact ⟨bufferExponent l, hself, bufferExponent_least l, hdvd⟩

theorem bufferBase_eq_of_baseAllowed {a b l : Nat} (hl : l ≤ 2 ^ 14) (hb : BaseAllowed b l) (ha : InBuffer a b l) :
    bufferBase a l = b :=
  bufferBase_eq_of_inBuffer (le_two_pow_bufferExponent hl) ((baseAllowed_iff_dvd hl).mp hb) ha

theorem bufferBase_le (a l : Nat) : bufferBase a l ≤ a :=
  Nat.sub_le _ _

/-- A length of more than half the address space takes the exponent of the whole. -/
theorem bufferBase_eq_zero_of_long {a l : Nat} (ha : a < 2 ^ 14) (hlong : 8192 < l) (hl : l ≤ 2 ^ 14) :
    bufferBase a l = 0 := by
  have hgt : 13 < bufferExponent l :=
    (Nat.pow_lt_pow_iff_right Nat.one_lt_two).mp (hlong.trans_le (le_two_pow_bufferExponent hl))
  have hexp : bufferExponent l = 14 := Nat.le_antisymm (bufferExponent_le hl) hgt
  rw [bufferBase, hexp, Nat.mod_eq_of_lt ha, Nat.sub_self]

/-- Settles O21, by `baseAllowed_iff_dvd` and the lemmas on `bufferBase`. -/
theorem baseIsDeterminedByAddressAndLength : Obligations.BaseIsDeterminedByAddressAndLength := by
  intro a l ha _ hl
  refine ⟨?_, bufferBase_le a l, ?_, ?_⟩
  · exact (baseAllowed_iff_dvd hl.le).mpr (Nat.dvd_sub_mod a)
  · intro b hb hin
    exact bufferBase_eq_of_baseAllowed hl.le hb hin
  · intro hlong
    exact bufferBase_eq_zero_of_long ha hlong hl.le

/-- A buffer with an address in the 14-bit space lies in it whole: the base and the space are both multiples of 2^n. -/
theorem buffer_end_le {a b l : Nat} (hl : l ≤ 2 ^ 14) (hb : BaseAllowed b l) (ha : a < 2 ^ 14)
    (hin : InBuffer a b l) : b + l ≤ 2 ^ 14 := by
  obtain ⟨hbase, -⟩ := hin
  have hdvd := (baseAllowed_iff_dvd hl).mp hb
  have hspace : 2 ^ bufferExponent l ∣ 2 ^ 14 := Nat.pow_dvd_pow 2 (bufferExponent_le hl)
  have hroom : 2 ^ bufferExponent l ≤ 2 ^ 14 - b :=
    Nat.le_of_dvd (by omega) (Nat.dvd_sub hspace hdvd)
  have hcovers := le_two_pow_bufferExponent hl
  omega

/-! ### The next address, case by case (R73, R74, R78) -/

theorem nextAddr_linear (a m : Word14) : nextAddr a m 0 = some (BitVec.ofInt 14 (a.toNat + m.toInt)) := by
  rw [nextAddr, if_pos rfl]

/-- The signed sum wraps as the sum of the two patterns does. -/
theorem nextAddr_zero (a m : Word14) : nextAddr a m 0 = some (a + m) := by
  rw [nextAddr_linear, BitVec.ofInt_add, BitVec.ofInt_toInt, BitVec.ofInt_natCast, BitVec.ofNat_toNat,
    BitVec.setWidth_eq]

/-- Settles O22: the two conditions under which a circular next address is given are `ModifyInRange` and `InBuffer`. -/
theorem nextAddressUnspecifiedExactly : Obligations.NextAddressUnspecifiedExactly := by
  intro a m l
  have hbase := bufferBase_le a.toNat l.toNat
  have hin : InBuffer a.toNat (bufferBase a.toNat l.toNat) l.toNat ↔
      a.toNat - bufferBase a.toNat l.toNat < l.toNat := by
    rw [InBuffer]
    omega
  by_cases hl : l = 0
  · simp only [hl, nextAddr_zero, reduceCtorEq, ne_eq, not_true_eq_false, false_and]
  · rw [nextAddr, if_neg hl, hin, ModifyInRange, ← not_and_or]
    simp only [ite_eq_right_iff, reduceCtorEq, imp_false, ne_eq, hl, not_false_eq_true, true_and]

theorem nextAddr_eq_some_of_inBuffer {a m l : Word14} (hl : l ≠ 0) (hm : ModifyInRange m l)
    (hin : InBuffer a.toNat (bufferBase a.toNat l.toNat) l.toNat) :
    nextAddr a m l = some (BitVec.ofInt 14
      (((a.toNat : Int) + m.toInt - bufferBase a.toNat l.toNat) % l.toNat + bufferBase a.toNat l.toNat)) := by
  obtain ⟨hbase, hend⟩ := hin
  rw [nextAddr, if_neg hl]
  exact if_pos ⟨hm, by omega⟩

/-- Settles O19: `nextAddr_linear`, by number. -/
theorem linearModifyAddsSigned : Obligations.LinearModifyAddsSigned := by
  intro a m
  exact ⟨_, nextAddr_linear a m, (ofInt14_eq_iff _ _).mp rfl⟩

/-! ### The modulo formula (R75) -/

/-- The formula's value is a 14-bit address of the buffer, so the register holds it as it is. -/
theorem nextAddr_modulo {a m l : Word14} {b : Nat} (hl : l ≠ 0) (hb : BaseAllowed b l.toNat)
    (hin : InBuffer a.toNat b l.toNat) (hm : ModifyInRange m l) :
    ∃ r, nextAddr a m l = some r ∧ (r.toNat : Int) = ((a.toNat : Int) + m.toInt - b) % l.toNat + b ∧
      InBuffer r.toNat b l.toNat := by
  have hspace : l.toNat ≤ 2 ^ 14 := l.isLt.le
  have hpos : 0 < l.toNat := Nat.pos_of_ne_zero fun h => hl (BitVec.eq_of_toNat_eq h)
  have hbase : bufferBase a.toNat l.toNat = b := bufferBase_eq_of_baseAllowed hspace hb hin
  have hend : b + l.toNat ≤ 2 ^ 14 := buffer_end_le hspace hb a.isLt hin
  have hnonneg := Int.emod_nonneg ((a.toNat : Int) + m.toInt - b) (b := l.toNat) (by omega)
  have hlt := Int.emod_lt_of_pos ((a.toNat : Int) + m.toInt - b) (b := l.toNat) (by omega)
  have hnext := nextAddr_eq_some_of_inBuffer hl hm (by rwa [hbase])
  rw [hbase] at hnext
  have hfits : (((a.toNat : Int) + m.toInt - b) % l.toNat + b) % 16384 =
      ((a.toNat : Int) + m.toInt - b) % l.toNat + b := Int.emod_eq_of_lt (by omega) (by omega)
  have hvalue := ((ofInt14_eq_iff _ _).mp rfl).trans hfits
  refine ⟨_, hnext, hvalue, ?_⟩
  rw [InBuffer]
  omega

/-- Less than one length off on either side, the floor modulus is one conditional correction. -/
theorem emod_eq_one_correction {x n : Int} (hlow : -n ≤ x) (hhigh : x < 2 * n) :
    x % n = if n ≤ x then x - n else if x < 0 then x + n else x := by
  split
  case isTrue h => rw [← Int.sub_emod_right, Int.emod_eq_of_lt (by omega) (by omega)]
  case isFalse h =>
    split
    case isTrue h' => rw [← Int.add_emod_right, Int.emod_eq_of_lt (by omega) (by omega)]
    case isFalse h' => exact Int.emod_eq_of_lt (by omega) (by omega)

/-- Settles O20: `nextAddr_modulo`, whose modulus is `emod_eq_one_correction` of an offset from the base. -/
theorem moduloFormula : Obligations.ModuloFormula := by
  intro a m l b hl hb hin hm
  obtain ⟨r, hnext, hvalue, hbuffer⟩ := nextAddr_modulo hl hb hin hm
  refine ⟨r, hnext, hvalue, hbuffer, ?_⟩
  obtain ⟨hbase, hend⟩ := hin
  unfold ModifyInRange at hm
  rw [hvalue, emod_eq_one_correction (by omega) (by omega)]
  split_ifs <;> omega

/-- Settles O23, by induction on the number of accesses: each leaves the address in the buffer, at the formula's
value. -/
theorem circularWalkWrapsAround : Obligations.CircularWalkWrapsAround := by
  intro a m l b k hl hb hin hm
  induction k generalizing a with
  | zero =>
    obtain ⟨hbase, hend⟩ := hin
    have hsmall : ((a.toNat : Int) - b) % l.toNat = a.toNat - b := Int.emod_eq_of_lt (by omega) (by omega)
    exact ⟨a, rfl, by simp [hsmall]⟩
  | succ k ih =>
    obtain ⟨r, hnext, hvalue, hbuffer⟩ := nextAddr_modulo hl hb hin hm
    obtain ⟨u, hwalk, hreached⟩ := ih r hbuffer
    refine ⟨u, by rw [walk, hnext, Option.bind_some, hwalk], ?_⟩
    rw [hreached, hvalue, add_sub_cancel_right, Int.emod_add_emod]
    push_cast
    ring_nf

/-! ### Bit-reversed addresses (R79, R81) -/

/-- Settles O16, by `bitrev14_getLsbD` and the library's reversal. -/
theorem reversalMirrorsFourteenBits : Obligations.ReversalMirrorsFourteenBits :=
  fun a => ⟨bitrev14_getLsbD a, BitVec.reverse_reverse_eq⟩

/-- The bits of a counter placed above `w` low bits. -/
theorem testBit_add_mul_two_pow {c w : Nat} (k p : Nat) (hc : c < 2 ^ w) :
    (c + k * 2 ^ w).testBit p = if p < w then c.testBit p else k.testBit (p - w) := by
  rw [Nat.add_comm, Nat.mul_comm, Nat.testBit_two_pow_mul_add k hc]

/-- In the 14-bit space the counter above `w` low bits has `n` bits where `w + n = 14`. -/
theorem ofNat14_add_mod_mul {n w : Nat} (c k : Nat) (h : n + w = 14) :
    BitVec.ofNat 14 (c + k % 2 ^ n * 2 ^ w) = BitVec.ofNat 14 (c + k * 2 ^ w) := by
  rw [BitVec.ofNat_add, BitVec.ofNat_add c, ← Nat.mul_mod_mul_right, ← Nat.pow_add, h]
  congr 1
  exact BitVec.eq_of_toNat_eq (by simp)

/-- Settles O17: reversal turns the counter above the low bits into the low bits of the address, and the linear
post-modify adds one to the counter. -/
theorem reversalOfFewerBits : Obligations.ReversalOfFewerBits := by
  intro n k c i j s hn hk hc hi hmode hI
  constructor
  · intro p hp
    rw [outAddr_of_reversed i s ((dagOf_eq_dag1_iff i).mpr hi) hmode, hI]
    simp only [bitrev14_getLsbD _ p hp, BitVec.getLsbD_ofNat, testBit_add_mul_two_pow k _ hc]
    have hin : decide (13 - p < 14) = true := decide_eq_true (by omega)
    by_cases hcounter : p < n
    · rw [if_neg (by omega), if_pos hcounter, hin, Bool.true_and, show 13 - p - (14 - n) = n - 1 - p by omega]
    · rw [if_pos (by omega), if_neg hcounter]
  · intro hM hL
    have hnext : nextAddr s.i[i] s.m[j] s.l[i] =
        some (BitVec.ofNat 14 (c + (k + 1) % 2 ^ n * 2 ^ (14 - n))) := by
      rw [hL, nextAddr_zero, hI, hM, BitVec.ofNat_add_ofNat, ofNat14_add_mod_mul c (k + 1) (by omega),
        Nat.succ_mul, Nat.add_assoc]
    refine ⟨hnext, ?_⟩
    rw [postModify_of_some i j s _ hnext, State.setI_i]
    exact Vector.getElem_set_self i.isLt

/-! ### What a post-modify writes to the I file (R70, R72, R78) -/

/-- What I[i] holds after a post-modify: the next address, or the DAG's next free value. -/
def modifiedIndex (i j : RegNo) (s : State) : Word14 :=
  (nextAddr s.i[i] s.m[j] s.l[i]).getD (Config.freeIndex (Dag.of i) (s.draws (Dag.of i)))

theorem postModify_i (i j : RegNo) (s : State) :
    (postModify i j s).i = s.i.set i.val (modifiedIndex i j s) i.isLt := by
  cases hnext : nextAddr s.i[i] s.m[j] s.l[i] with
  | some a => rw [postModify_of_some i j s a hnext, modifiedIndex, hnext, State.setI_i, Option.getD_some]
  | none =>
    rw [postModify_of_none i j s hnext, modifiedIndex, hnext, State.countDraw_i, State.setI_i, Option.getD_none]

@[simp] theorem State.setI_draws (s : State) (k : RegNo) (v : Word14) (g : Dag) : (s.setI k v).draws g = s.draws g := by
  cases g <;> rfl

theorem postModify_draws_of_ne (i j : RegNo) (s : State) {g : Dag} (h : g ≠ Dag.of i) :
    (postModify i j s).draws g = s.draws g := by
  obtain ⟨a, hpost | hpost⟩ := postModify_cases i j s
  · rw [hpost, State.setI_draws]
  · rw [hpost, State.countDraw_draws, if_neg h, State.setI_draws]

/-- Where the next address is unspecified, a post-modify draws one free value into I[i]. -/
theorem postModify_freeModify {i j : RegNo} {s : State} (h : nextAddr s.i[i] s.m[j] s.l[i] = none) :
    FreeModify i s (postModify i j s) := by
  refine ⟨?_, ?_, fun g hg => postModify_draws_of_ne i j s hg⟩
  · simp only [postModify_i, modifiedIndex, h, Option.getD_none]
    exact Vector.getElem_set_self i.isLt
  · rw [postModify_of_none i j s h, State.countDraw_draws, if_pos rfl, State.setI_draws]

/-! ### Post-modifies in different DAGs (R83) -/

theorem State.setI_comm (s : State) {k n : RegNo} (u v : Word14) (h : k ≠ n) :
    (s.setI k u).setI n v = (s.setI n v).setI k u := by
  have hval : k.val ≠ n.val := fun e => h (Fin.ext e)
  rw [State.setI, State.setI_i, Vector.set_comm u v hval]
  rfl

theorem State.setI_countDraw (s : State) (k : RegNo) (v : Word14) (g : Dag) :
    (s.countDraw g).setI k v = (s.setI k v).countDraw g := by
  cases g <;> rfl

theorem State.countDraw_comm (s : State) (g h : Dag) : (s.countDraw g).countDraw h = (s.countDraw h).countDraw g := by
  cases g <;> cases h <;> rfl

theorem State.setI_getElem_of_ne (s : State) {k n : RegNo} (v : Word14) (h : n ≠ k) : (s.setI k v).i[n] = s.i[n] :=
  s.setDagReg_dagReg_of_ne (.i k) (.i n) v fun e => h (DagReg.i.inj e)

/-- A post-modify does not see another I register. -/
theorem postModify_setI_of_ne (i j : RegNo) (s : State) {k : RegNo} (v : Word14) (h : i ≠ k) :
    postModify i j (s.setI k v) = (postModify i j s).setI k v := by
  have hread := s.setI_getElem_of_ne v h
  cases hnext : nextAddr s.i[i] s.m[j] s.l[i] with
  | some a =>
    rw [postModify_of_some i j s a hnext, postModify_of_some i j (s.setI k v) a (by rw [hread]; exact hnext),
      s.setI_comm v a h.symm]
  | none =>
    rw [postModify_of_none i j s hnext, postModify_of_none i j (s.setI k v) (by rw [hread]; exact hnext),
      State.setI_draws, s.setI_comm v _ h.symm, State.setI_countDraw]

/-- A post-modify does not see the other DAG's counter. -/
theorem postModify_countDraw_of_ne (i j : RegNo) (s : State) {g : Dag} (h : Dag.of i ≠ g) :
    postModify i j (s.countDraw g) = (postModify i j s).countDraw g := by
  have hinputs : nextAddr (s.countDraw g).i[i] (s.countDraw g).m[j] (s.countDraw g).l[i] =
      nextAddr s.i[i] s.m[j] s.l[i] := by
    simp only [State.countDraw_i, State.countDraw_m, State.countDraw_l]
  cases hnext : nextAddr s.i[i] s.m[j] s.l[i] with
  | some a =>
    rw [postModify_of_some i j s a hnext, postModify_of_some i j _ a (hinputs.trans hnext), State.setI_countDraw]
  | none =>
    rw [postModify_of_none i j s hnext, postModify_of_none i j _ (hinputs.trans hnext), State.countDraw_draws,
      if_neg h, State.setI_countDraw, State.countDraw_comm]

/-- A post-modify leaves every other I register as it was. -/
theorem postModify_getElem_i_of_ne (i j : RegNo) (s : State) {k : RegNo} (h : k ≠ i) :
    (postModify i j s).i[k] = s.i[k] :=
  postModify_dagReg_of_ne i j s (.i k) fun e => h (DagReg.i.inj e)

/-- Settles O25: the second post-modify's operands stand after the first, and each write moves past the first. -/
theorem dagOperationsCommute : Obligations.DagOperationsCommute := by
  intro i j i' j' s _ _ hdag
  have hne : i ≠ i' := fun e => hdag (congrArg Dag.of e)
  have hinputs : nextAddr (postModify i j s).i[i'] (postModify i j s).m[j'] (postModify i j s).l[i'] =
      nextAddr s.i[i'] s.m[j'] s.l[i'] := by
    rw [postModify_getElem_i_of_ne i j s hne.symm, postModify_m, postModify_l]
  constructor
  · cases hnext : nextAddr s.i[i'] s.m[j'] s.l[i'] with
    | some a =>
      rw [postModify_of_some i' j' s a hnext, postModify_of_some i' j' _ a (hinputs.trans hnext),
        postModify_setI_of_ne i j s a hne]
    | none =>
      rw [postModify_of_none i' j' s hnext, postModify_of_none i' j' _ (hinputs.trans hnext),
        postModify_draws_of_ne i j s hdag.symm, postModify_countDraw_of_ne i j _ hdag,
        postModify_setI_of_ne i j s _ hne]
  · rw [outAddr, outAddr, postModify_bitRev, postModify_getElem_i_of_ne i' j' s hne]

/-! ### The mode bit (R22, R80) -/

@[simp] theorem State.setDagReg_bitRev (s : State) (r : DagReg) (v : Word14) : (s.setDagReg r v).bitRev = s.bitRev := by
  cases r <;> rfl

@[simp] theorem State.busWrite_bitRev (s : State) (r : Reg) (v : Word16) : (s.busWrite r v).bitRev = s.bitRev := by
  cases r with
  | dag q => exact s.setDagReg_bitRev q (low14 v)
  | data d => rfl
  | px => rfl

theorem effect_bitRev {f : Instr} (s : State) (hena : f ≠ .enaBr) (hdis : f ≠ .disBr) :
    (effect f s).bitRev = s.bitRev := by
  cases f with
  | ldi r c => exact s.setDagReg_bitRev r c
  | dmdR r a => exact s.busWrite_bitRev r _
  | mov dst src => exact s.busWrite_bitRev dst _
  | dmdW r a => rfl
  | dmiR d i j | dmiW d i j | pmiR d i j | pmiW d i j => exact postModify_bitRev i j _
  | enaBr => exact absurd rfl hena
  | disBr => exact absurd rfl hdis

/-- Settles O30, by `effect_bitRev`. -/
theorem modeChangesOnlyByEnableDisable : Obligations.ModeChangesOnlyByEnableDisable := by
  intro f s t h hchanged
  obtain rfl := exec_next_eq_effect h
  by_contra hother
  push Not at hother
  obtain ⟨hena, hdis⟩ := hother
  exact hchanged (effect_bitRev s hena hdis)

/-! ### An indirect access in either mode (R80, R82) -/

/-- A statement that may access completes below the top address. -/
theorem exec_of_accessAllowed {f : Instr} {s : State} (hallowed : accessAllowed f s) (hbelow : s.pc ≠ topAddress) :
    exec f s = .next ((effect f s).setPc (s.pc + 1)) :=
  (exec_eq_next f s _).mpr ⟨hallowed, hbelow, rfl⟩

theorem State.setData_data_self (s : State) {d : DataReg} (v : Word16) (h : narrow d = false) :
    (s.setData d v).data d = v :=
  s.regs.read_write_self d v h

@[simp] theorem postModify_data (i j : RegNo) (s : State) (d : DataReg) : (postModify i j s).data d = s.data d :=
  State.data_congr (postModify_regs i j s) d

@[simp] theorem postModify_dmWord (i j : RegNo) (s : State) (a : Word14) :
    (postModify i j s).dmWord a = s.dmWord a := by
  rw [State.dmWord, State.dmWord, postModify_dm]

@[simp] theorem postModify_pmWord (i j : RegNo) (s : State) (a : Word14) :
    (postModify i j s).pmWord a = s.pmWord a := by
  rw [State.pmWord, State.pmWord, postModify_pm]

/-- The access of an indirect statement leaves the operands of its post-modify alone. -/
theorem effect_dmiR_i (d : DataReg) (i j : RegNo) (s : State) : (effect (.dmiR d i j) s).i = (postModify i j s).i :=
  (postModify_i i j _).trans (postModify_i i j s).symm

theorem effect_dmiW_i (d : DataReg) (i j : RegNo) (s : State) : (effect (.dmiW d i j) s).i = (postModify i j s).i :=
  (postModify_i i j _).trans (postModify_i i j s).symm

/-- The register an indirect read loads holds the word at the output address. -/
theorem effect_dmiR_data {d : DataReg} (i j : RegNo) (s : State) (h : narrow d = false) :
    (effect (.dmiR d i j) s).data d = s.dmWord (outAddr i s) := by
  rw [effect, postModify_data, State.setData_data_self s _ h]

/-- The word at the output address of an indirect write is the register stored. -/
theorem effect_dmiW_dmWord (d : DataReg) (i j : RegNo) (s : State) :
    (effect (.dmiW d i j) s).dmWord (outAddr i s) = s.data d := by
  rw [effect, postModify_dmWord, State.putDm_dmWord_self]

/-- Settles O18: both runs complete, and the modes differ in the output address alone. -/
theorem bitReverseLeavesModifyInNormalOrder : Obligations.BitReverseLeavesModifyInNormalOrder := by
  intro d i j s hpair hi hbelow hmapped hmappedRev
  have hrev : outAddr i (s.setBitRev true) = bitrev14 s.i[i] :=
    outAddr_of_reversed i (s.setBitRev true) ((dagOf_eq_dag1_iff i).mpr hi) rfl
  have hnormal : outAddr i (s.setBitRev false) = s.i[i] := outAddr_of_normal i (s.setBitRev false) rfl
  have hallowedRev : dmPairOk i j = true ∧ s.map.dmMapped (outAddr i (s.setBitRev true)) = true :=
    ⟨hpair, by rwa [hrev]⟩
  have hallowed : dmPairOk i j = true ∧ s.map.dmMapped (outAddr i (s.setBitRev false)) = true :=
    ⟨hpair, by rwa [hnormal]⟩
  have hsame : (postModify i j (s.setBitRev true)).i = (postModify i j (s.setBitRev false)).i := by
    rw [postModify_setBitRev, postModify_setBitRev, State.setBitRev_i, State.setBitRev_i]
  constructor
  · refine ⟨_, _, exec_of_accessAllowed (f := .dmiR d i j) hallowedRev hbelow,
      exec_of_accessAllowed (f := .dmiR d i j) hallowed hbelow, ?_, ?_, fun hwide => ⟨?_, ?_⟩⟩
    · exact (effect_dmiR_i d i j _).trans (hsame.trans (effect_dmiR_i d i j _).symm)
    · exact effect_bitRev (s.setBitRev true) nofun nofun
    · exact (effect_dmiR_data i j (s.setBitRev true) hwide).trans (congrArg s.dmWord hrev)
    · exact (effect_dmiR_data i j (s.setBitRev false) hwide).trans (congrArg s.dmWord hnormal)
  · refine ⟨_, _, exec_of_accessAllowed (f := .dmiW d i j) hallowedRev hbelow,
      exec_of_accessAllowed (f := .dmiW d i j) hallowed hbelow, ?_, ?_, ?_, ?_⟩
    · exact (effect_dmiW_i d i j _).trans (hsame.trans (effect_dmiW_i d i j _).symm)
    · exact effect_bitRev (s.setBitRev true) nofun nofun
    · rw [← hrev]
      exact effect_dmiW_dmWord d i j (s.setBitRev true)
    · have hword := effect_dmiW_dmWord d i j (s.setBitRev false)
      rw [hnormal] at hword
      exact hword

/-! ### The frame of a completed statement, for all ten at once (R34) -/

/-- A data-memory word the statement does not store to is held as before. -/
theorem effect_dm_of_unnamed (f : Instr) (s : State) (a : Word14) (h : ¬ f.storesDm s a) :
    (effect f s).dm.lookup a.toNat = s.dm.lookup a.toNat := by
  obtain hsame | ⟨b, v, hstore, hdm⟩ | ⟨b, v, -, hpm⟩ := effect_memories_cases f s
  · rw [hsame.dm]
  · have hne : a ≠ b := fun e => h (e ▸ hstore)
    rw [hdm.dm]
    exact Memory.lookup_store_of_ne _ _ _ v fun e => hne (BitVec.eq_of_toNat_eq e)
  · rw [hpm.dm]
    rfl

theorem effect_pm_of_unnamed (f : Instr) (s : State) (a : Word14) (h : ¬ f.storesPm s a) :
    (effect f s).pm.lookup a.toNat = s.pm.lookup a.toNat := by
  obtain hsame | ⟨b, v, -, hdm⟩ | ⟨b, v, hstore, hpm⟩ := effect_memories_cases f s
  · rw [hsame.pm]
  · rw [hdm.pm]
    rfl
  · have hne : a ≠ b := fun e => h (e ▸ hstore)
    rw [hpm.pm]
    exact Memory.lookup_store_of_ne _ _ _ v fun e => hne (BitVec.eq_of_toNat_eq e)

@[simp] theorem State.setDagReg_map (s : State) (r : DagReg) (v : Word14) : (s.setDagReg r v).map = s.map := by
  cases r <;> rfl

@[simp] theorem State.busWrite_map (s : State) (r : Reg) (v : Word16) : (s.busWrite r v).map = s.map := by
  cases r with
  | dag q => exact s.setDagReg_map q (low14 v)
  | data d => rfl
  | px => rfl

theorem effect_map (f : Instr) (s : State) : (effect f s).map = s.map := by
  cases f with
  | ldi r c => exact s.setDagReg_map r c
  | dmdR r a => exact s.busWrite_map r _
  | mov dst src => exact s.busWrite_map dst _
  | dmiR d i j | dmiW d i j | pmiR d i j | pmiW d i j => exact postModify_map i j _
  | dmdW _ _ | enaBr | disBr => rfl

/-- A completed statement changes the registers it names and the words it stores to, and nothing else of the frame. -/
theorem exec_frame {f : Instr} {s t : State} (h : exec f s = .next t) :
    Frame s t (fun q => f.writesReg (.dag q) ∨ ∃ k, q = .i k ∧ f.accessesThrough k)
      (fun d => f.writesReg (.data d)) (f.storesDm s) (f.storesPm s) := by
  obtain ⟨hdag, hdata⟩ := registersChangeOnlyWhereNamed f s t h
  obtain rfl := exec_next_eq_effect h
  have hdm := effect_dm_of_unnamed f s
  have hpm := effect_pm_of_unnamed f s
  exact {
    dagRegs := fun q hq => by_contra fun hne => hq (hdag q hne)
    dataRegs := fun d hd => by_contra fun hne => hd (hdata d hne)
    dmReads := fun a ha => congrArg (·.getD (Config.dmPowerOn a)) (hdm a ha)
    dmHeld := hdm
    pmReads := fun a ha => congrArg (·.getD (Config.pmPowerOn a)) (hpm a ha)
    pmHeld := hpm
    map := effect_map f s }

/-- A frame that lets more change follows from one that lets less. -/
theorem Frame.mono {s t : State} {dag dag' : DagReg → Prop} {data data' : DataReg → Prop}
    {dm dm' pm pm' : Word14 → Prop} (h : Frame s t dag data dm pm) (hdag : ∀ q, dag q → dag' q)
    (hdata : ∀ d, data d → data' d) (hdm : ∀ a, dm a → dm' a) (hpm : ∀ a, pm a → pm' a) :
    Frame s t dag' data' dm' pm' where
  dagRegs q hq := h.dagRegs q fun h' => hq (hdag q h')
  dataRegs d hd := h.dataRegs d fun h' => hd (hdata d h')
  dmReads a ha := h.dmReads a fun h' => ha (hdm a h')
  dmHeld a ha := h.dmHeld a fun h' => ha (hdm a h')
  pmReads a ha := h.pmReads a fun h' => ha (hpm a h')
  pmHeld a ha := h.pmHeld a fun h' => ha (hpm a h')
  map := h.map

/-! ### An indirect access whose next address is unspecified (R78) -/

theorem pmLower_toNat (w : Word24) : (pmLower w).toNat = w.toNat % 256 := by
  simp [pmLower]

theorem pmJoin_toNat (v : Word16) (px : Word8) : (pmJoin v px).toNat = v.toNat * 256 + px.toNat := by
  rw [pmJoin, BitVec.toNat_append, ← Nat.shiftLeft_add_eq_or_of_lt px.isLt, Nat.shiftLeft_eq]

/-- An indirect access changes no DAG register but its I register. -/
theorem exec_frame_of_indirect {f : Instr} {i : RegNo} {s t : State} (h : exec f s = .next t)
    (hdst : ∀ q, ¬ f.writesReg (.dag q)) (haccess : ∀ k, f.accessesThrough k → i = k) :
    Frame s t (only (.i i)) (fun d => f.writesReg (.data d)) (f.storesDm s) (f.storesPm s) := by
  refine (exec_frame h).mono ?_ (fun _ => id) (fun _ => id) (fun _ => id)
  rintro q (hwrites | ⟨k, rfl, hk⟩)
  · exact absurd hwrites (hdst q)
  · exact congrArg DagReg.i (haccess k hk).symm

theorem execDmiR_frame {d : DataReg} {i j : RegNo} {s t : State} (h : exec (.dmiR d i j) s = .next t) :
    Frame s t (only (.i i)) (only d) nothing nothing :=
  (exec_frame_of_indirect h nofun fun _ => id).mono (fun _ => id) (fun _ => Reg.data.inj) (fun _ => id) (fun _ => id)

theorem execDmiW_frame {d : DataReg} {i j : RegNo} {s t : State} (h : exec (.dmiW d i j) s = .next t) :
    Frame s t (only (.i i)) nothing (only (outAddr i s)) nothing :=
  (exec_frame_of_indirect h nofun fun _ => id).mono (fun _ => id) (fun _ => id) (fun _ => Eq.symm) (fun _ => id)

theorem execPmiR_frame {d : DataReg} {i j : RegNo} {s t : State} (h : exec (.pmiR d i j) s = .next t) :
    Frame s t (only (.i i)) (only d) nothing nothing :=
  (exec_frame_of_indirect h nofun fun _ => id).mono (fun _ => id) (fun _ => Reg.data.inj) (fun _ => id) (fun _ => id)

theorem execPmiW_frame {d : DataReg} {i j : RegNo} {s t : State} (h : exec (.pmiW d i j) s = .next t) :
    Frame s t (only (.i i)) nothing nothing (only s.i[i]) :=
  (exec_frame_of_indirect h nofun fun _ => id).mono (fun _ => id) (fun _ => id) (fun _ => id) (fun _ => Eq.symm)

/-- The register a program-memory read loads holds the upper 16 bits of the word. -/
theorem effect_pmiR_data {d : DataReg} (i j : RegNo) (s : State) (h : narrow d = false) :
    (effect (.pmiR d i j) s).data d = pmUpper (s.pmWord s.i[i]) := by
  rw [effect, postModify_data]
  exact s.setData_data_self _ h

theorem effect_pmiR_px (d : DataReg) (i j : RegNo) (s : State) :
    (effect (.pmiR d i j) s).px = pmLower (s.pmWord s.i[i]) :=
  postModify_px i j _

theorem effect_pmiW_pmWord (d : DataReg) (i j : RegNo) (s : State) :
    (effect (.pmiW d i j) s).pmWord s.i[i] = pmJoin (s.data d) s.px := by
  rw [effect, postModify_pmWord, State.putPm_pmWord_self]

/-- Settles O12: each form is its access and then the post-modify, which draws the free value. -/
theorem unspecifiedModifyDrawsFreeValue : Obligations.UnspecifiedModifyDrawsFreeValue := by
  constructor
  · intro d i j s hpair hmapped hbelow hnext
    have hread := exec_of_accessAllowed (f := .dmiR d i j) ⟨hpair, hmapped⟩ hbelow
    have hwrite := exec_of_accessAllowed (f := .dmiW d i j) ⟨hpair, hmapped⟩ hbelow
    constructor
    · exact ⟨_, hread, effect_dmiR_data i j s, postModify_freeModify (s := s.setData d _) hnext, rfl,
        postModify_px i j _, postModify_bitRev i j _, postModify_pmWritten i j _, execDmiR_frame hread⟩
    · exact ⟨_, hwrite, effect_dmiW_dmWord d i j s, postModify_freeModify (s := s.putDm _ _) hnext, rfl,
        postModify_px i j _, postModify_bitRev i j _, postModify_pmWritten i j _, execDmiW_frame hwrite⟩
  · intro d i j s hpair hmapped hbelow hnext
    have hread := exec_of_accessAllowed (f := .pmiR d i j) ⟨hpair, hmapped⟩ hbelow
    have hwrite := exec_of_accessAllowed (f := .pmiW d i j) ⟨hpair, hmapped⟩ hbelow
    constructor
    · exact ⟨_, hread, fun hwide => (congrArg BitVec.toNat (effect_pmiR_data i j s hwide)).trans (pmUpper_toNat _),
        (congrArg BitVec.toNat (effect_pmiR_px d i j s)).trans (pmLower_toNat _),
        postModify_freeModify (s := (s.setData d _).setPx _) hnext, rfl, postModify_bitRev i j _,
        postModify_pmWritten i j _, execPmiR_frame hread⟩
    · exact ⟨_, hwrite, (congrArg BitVec.toNat (effect_pmiW_pmWord d i j s)).trans (pmJoin_toNat _ _),
        postModify_freeModify (s := s.putPm _ _) hnext, rfl, postModify_px i j _, postModify_bitRev i j _,
        execPmiW_frame hwrite⟩

end Sys2Proof.Machine
end

section
/-! Proofs of the statements about data-memory accesses, moves and the mode instructions (spec/41_dm_access.md): what
each of them writes, and that nothing else changes. -/

namespace Sys2Proof.Machine

/-! ### The frame of a completed statement (R90 to R97) -/

/-- Settles O32: it is the memory part of `exec_frame`. -/
theorem memoryChangesOnlyByStores : Obligations.MemoryChangesOnlyByStores := by
  intro f s t h
  have hframe := exec_frame h
  exact ⟨fun a ha => ⟨hframe.dmReads a ha, hframe.dmHeld a ha⟩,
    fun a ha => ⟨hframe.pmReads a ha, hframe.pmHeld a ha⟩, hframe.map⟩

/-- A statement that makes no indirect access changes no DAG register but the one it names. -/
theorem exec_frame_of_direct {f : Instr} {s t : State} (h : exec f s = .next t)
    (haccess : ∀ k, ¬ f.accessesThrough k) :
    Frame s t (fun q => f.writesReg (.dag q)) (fun d => f.writesReg (.data d)) (f.storesDm s) (f.storesPm s) := by
  refine (exec_frame h).mono ?_ (fun _ => id) (fun _ => id) (fun _ => id)
  rintro q (hwrites | ⟨k, -, hk⟩)
  · exact hwrites
  · exact absurd hk (haccess k)

theorem execLdi_frame {r : DagReg} {c : Word14} {s t : State} (h : exec (.ldi r c) s = .next t) :
    Frame s t (only r) nothing nothing nothing :=
  (exec_frame_of_direct h fun _ => id).mono (fun _ => Reg.dag.inj) nofun (fun _ => id) (fun _ => id)

theorem execDmdR_frame {r : Reg} {a : Word14} {s t : State} (h : exec (.dmdR r a) s = .next t) :
    Frame s t (dagOf r) (dataOf r) nothing nothing :=
  (exec_frame_of_direct h fun _ => id).mono (fun _ => Eq.symm) (fun _ => Eq.symm) (fun _ => id) (fun _ => id)

theorem execDmdW_frame {r : Reg} {a : Word14} {s t : State} (h : exec (.dmdW r a) s = .next t) :
    Frame s t nothing nothing (only a) nothing :=
  (exec_frame_of_direct h fun _ => id).mono (fun _ => id) (fun _ => id) (fun _ => Eq.symm) (fun _ => id)

theorem execMov_frame {dst src : Reg} {s t : State} (h : exec (.mov dst src) s = .next t) :
    Frame s t (dagOf dst) (dataOf dst) nothing nothing :=
  (exec_frame_of_direct h fun _ => id).mono (fun _ => Eq.symm) (fun _ => Eq.symm) (fun _ => id) (fun _ => id)

theorem execEnaBr_frame {s t : State} (h : exec .enaBr s = .next t) : Frame s t nothing nothing nothing nothing :=
  exec_frame_of_direct h fun _ => id

theorem execDisBr_frame {s t : State} (h : exec .disBr s = .next t) : Frame s t nothing nothing nothing nothing :=
  exec_frame_of_direct h fun _ => id

/-! ### PX (R20) -/

@[simp] theorem State.setDagReg_px (s : State) (r : DagReg) (v : Word14) : (s.setDagReg r v).px = s.px := by
  cases r <;> rfl

theorem State.busWrite_px_of_ne (s : State) {r : Reg} (v : Word16) (h : r ≠ .px) : (s.busWrite r v).px = s.px := by
  cases r with
  | dag q => exact s.setDagReg_px q (low14 v)
  | data d => rfl
  | px => exact absurd rfl h

/-- PX changes only as a named destination, or with a program-memory read. -/
theorem effect_px (f : Instr) (s : State) (hdst : ¬ f.writesReg .px) (hread : ∀ d i j, f ≠ .pmiR d i j) :
    (effect f s).px = s.px := by
  cases f with
  | ldi r c => exact s.setDagReg_px r c
  | dmdR r a => exact s.busWrite_px_of_ne _ fun e => hdst e.symm
  | mov dst src => exact s.busWrite_px_of_ne _ fun e => hdst e.symm
  | dmiR d i j | dmiW d i j | pmiW d i j => exact postModify_px i j _
  | pmiR d i j => exact absurd rfl (hread d i j)
  | dmdW _ _ | enaBr | disBr => rfl

/-! ### The record of written program memory (R44) -/

theorem effect_pmWritten (f : Instr) (s : State) (h : ∀ a, ¬ f.storesPm s a) :
    (effect f s).pmWritten = s.pmWritten := by
  obtain hsame | ⟨a, v, -, hdm⟩ | ⟨a, v, hstore, -⟩ := effect_memories_cases f s
  · exact hsame.pmWritten
  · exact hdm.pmWritten
  · exact absurd hstore (h a)

/-! ### The model's counters (notes/assumptions/12.md) -/

theorem State.setDagReg_sameDraws (s : State) (r : DagReg) (v : Word14) : SameDraws s (s.setDagReg r v) := by
  cases r <;> exact ⟨rfl, rfl⟩

theorem State.busWrite_sameDraws (s : State) (r : Reg) (v : Word16) : SameDraws s (s.busWrite r v) := by
  cases r with
  | dag q => exact s.setDagReg_sameDraws q (low14 v)
  | data d => exact ⟨rfl, rfl⟩
  | px => exact ⟨rfl, rfl⟩

theorem postModify_sameDraws {i j : RegNo} {s : State} (h : (nextAddr s.i[i] s.m[j] s.l[i]).isNone = false) :
    SameDraws s (postModify i j s) := by
  obtain ⟨a, hnext⟩ := Option.isSome_iff_exists.mp (Option.isNone_eq_false_iff.mp h)
  rw [postModify_of_some i j s a hnext]
  exact ⟨rfl, rfl⟩

/-- A statement whose result the spec states draws no free value. -/
theorem effect_sameDraws (f : Instr) (s : State) (h : unspecifiedModify f s = false) : SameDraws s (effect f s) := by
  cases f with
  | ldi r c => exact s.setDagReg_sameDraws r c
  | dmdR r a => exact s.busWrite_sameDraws r _
  | mov dst src => exact s.busWrite_sameDraws dst _
  | dmiR d i j => exact postModify_sameDraws (s := s.setData d _) h
  | dmiW d i j => exact postModify_sameDraws (s := s.putDm _ _) h
  | pmiR d i j => exact postModify_sameDraws (s := (s.setData d _).setPx _) h
  | pmiW d i j => exact postModify_sameDraws (s := s.putPm _ _) h
  | dmdW _ _ | enaBr | disBr => exact ⟨rfl, rfl⟩

/-! ### Constants, direct accesses and moves (R90, R91, R92, R95) -/

theorem State.putDm_lookup_self (s : State) (a : Word14) (v : Word16) :
    (s.putDm a v).dm.lookup a.toNat = some v :=
  Memory.lookup_store_self s.dm a.toNat v

/-- Settles O1: the assembler's field is `c` modulo 16384, and LDI writes it to the named register. -/
theorem ldiLoadsConstantModulo : Obligations.LdiLoadsConstantModulo := by
  intro r c s hlow hhigh hbelow
  have hmod : ((BitVec.ofInt 14 c).toNat : Int) = c % 16384 := (ofInt14_eq_iff c _).mp rfl
  have hexec := exec_of_accessAllowed (f := .ldi r (BitVec.ofInt 14 c)) trivial hbelow
  have hread : (effect (.ldi r (BitVec.ofInt 14 c)) s).dagReg r = BitVec.ofInt 14 c := s.setDagReg_dagReg_self r _
  refine ⟨_, _, (constant14_eq_ok c _).mpr ⟨⟨hlow, hhigh⟩, hmod⟩, hexec, ?_, rfl, effect_px _ s nofun nofun,
    effect_bitRev s nofun nofun, effect_pmWritten _ s nofun, effect_sameDraws _ s rfl, execLdi_frame hexec⟩
  exact (congrArg (fun w => (w.toNat : Int)) hread).trans hmod

/-- Settles O2: DMD_R is a load from the bus of the word at the instruction's address. -/
theorem directReadLoadsRegister : Obligations.DirectReadLoadsRegister := by
  intro r a s hmapped hbelow
  have hexec := exec_of_accessAllowed (f := .dmdR r a) hmapped hbelow
  exact ⟨_, hexec, busWriteKeepsLowBits s r _, rfl, fun hne => effect_px _ s hne.symm nofun,
    effect_bitRev s nofun nofun, effect_pmWritten _ s nofun, effect_sameDraws _ s rfl, execDmdR_frame hexec⟩

/-- Settles O3: DMD_W puts what the register drives at the instruction's address. -/
theorem directWriteStoresBusValue : Obligations.DirectWriteStoresBusValue := by
  intro r a s hmapped hbelow
  have hexec := exec_of_accessAllowed (f := .dmdW r a) hmapped hbelow
  have hword : (effect (.dmdW r a) s).dmWord a = s.busRead r := s.putDm_dmWord_self a _
  refine ⟨_, hexec, (drives_iff_eq_busRead s r _).mpr hword, ?_, rfl, rfl, rfl, rfl, effect_sameDraws _ s rfl,
    execDmdW_frame hexec⟩
  exact (s.putDm_lookup_self a _).trans (congrArg some hword.symm)

/-- Settles O6: MOV is a load from the bus of what the source drives. -/
theorem moveCarriesBusValue : Obligations.MoveCarriesBusValue := by
  intro dst src s hbelow
  have hexec := exec_of_accessAllowed (f := .mov dst src) trivial hbelow
  exact ⟨_, s.busRead src, hexec, busReadExtendsByKind s src, busWriteKeepsLowBits s dst _, rfl,
    fun hne => effect_px _ s hne.symm nofun, effect_bitRev s nofun nofun, effect_pmWritten _ s nofun,
    effect_sameDraws _ s rfl, execMov_frame hexec⟩

/-! ### Indirect accesses (R93, R94) -/

/-- Where the next address is stated, I[i] holds it after the post-modify. -/
theorem postModify_getElem_i_of_some {i j : RegNo} {s : State} {n : Word14}
    (h : nextAddr s.i[i] s.m[j] s.l[i] = some n) : (postModify i j s).i[i] = n := by
  rw [postModify_of_some i j s n h]
  exact Vector.getElem_set_self i.isLt

/-- The stored word is listed at the output address of an indirect write. -/
theorem effect_dmiW_lookup (d : DataReg) (i j : RegNo) (s : State) :
    (effect (.dmiW d i j) s).dm.lookup (outAddr i s).toNat = some (s.data d) := by
  rw [effect, postModify_dm, State.putDm_lookup_self]

/-- Settles O4: DMI_R is a load of the word at the output address and then the post-modify. -/
theorem indirectReadLoadsAndModifies : Obligations.IndirectReadLoadsAndModifies := by
  intro d i j n s hpair hmapped hbelow hnext
  have hexec := exec_of_accessAllowed (f := .dmiR d i j) ⟨hpair, hmapped⟩ hbelow
  have hspecified : unspecifiedModify (.dmiR d i j) s = false := congrArg Option.isNone hnext
  exact ⟨_, hexec, effect_dmiR_data i j s, postModify_getElem_i_of_some (s := s.setData d _) hnext,
    effect_sameDraws _ s hspecified, rfl, effect_px _ s nofun nofun, effect_bitRev s nofun nofun,
    effect_pmWritten _ s nofun, execDmiR_frame hexec⟩

/-- Settles O5: DMI_W is a store at the output address and then the post-modify. -/
theorem indirectWriteStoresAndModifies : Obligations.IndirectWriteStoresAndModifies := by
  intro d i j n s hpair hmapped hbelow hnext
  have hexec := exec_of_accessAllowed (f := .dmiW d i j) ⟨hpair, hmapped⟩ hbelow
  have hspecified : unspecifiedModify (.dmiW d i j) s = false := congrArg Option.isNone hnext
  exact ⟨_, hexec, effect_dmiW_dmWord d i j s, effect_dmiW_lookup d i j s,
    postModify_getElem_i_of_some (s := s.putDm _ _) hnext, effect_sameDraws _ s hspecified, rfl,
    effect_px _ s nofun nofun, effect_bitRev s nofun nofun, effect_pmWritten _ s nofun, execDmiW_frame hexec⟩

/-! ### The mode instructions (R96, R97) -/

/-- Settles O7, with `execEnaBr_frame`: the mode bit and `pc` are the only fields ENA_BR writes. -/
theorem enableSetsBitReverse : Obligations.EnableSetsBitReverse := by
  intro s hbelow
  have hexec := exec_of_accessAllowed (f := .enaBr) trivial hbelow
  exact ⟨_, hexec, rfl, rfl, rfl, rfl, ⟨rfl, rfl⟩, execEnaBr_frame hexec⟩

/-- Settles O8, with `execDisBr_frame`: the mode bit and `pc` are the only fields DIS_BR writes. -/
theorem disableClearsBitReverse : Obligations.DisableClearsBitReverse := by
  intro s hbelow
  have hexec := exec_of_accessAllowed (f := .disBr) trivial hbelow
  exact ⟨_, hexec, rfl, rfl, rfl, rfl, ⟨rfl, rfl⟩, execDisBr_frame hexec⟩

end Sys2Proof.Machine
end

section
/-! Proofs of the statements about program memory read and written as data, and PX with them
(spec/42_pm_access_px.md): how a 24-bit word is split and joined, and when PX changes. -/

namespace Sys2Proof.Machine

/-! ### Loads and stores through program memory (R110, R111) -/

theorem State.putPm_lookup_self (s : State) (a : Word14) (v : Word24) :
    (s.putPm a v).pm.lookup a.toNat = some v :=
  Memory.lookup_store_self s.pm a.toNat v

/-- The stored word is listed at the address of a program-memory write. -/
theorem effect_pmiW_lookup (d : DataReg) (i j : RegNo) (s : State) :
    (effect (.pmiW d i j) s).pm.lookup s.i[i].toNat = some (pmJoin (s.data d) s.px) := by
  rw [effect, postModify_pm, State.putPm_lookup_self]

/-- Settles O9: PMI_R loads the two parts of the word at I[i], and then the post-modify. -/
theorem programReadSplitsWord : Obligations.ProgramReadSplitsWord := by
  intro d i j n s hpair hmapped hbelow hnext
  have hexec := exec_of_accessAllowed (f := .pmiR d i j) ⟨hpair, hmapped⟩ hbelow
  have hspecified : unspecifiedModify (.pmiR d i j) s = false := congrArg Option.isNone hnext
  have hpx : (effect (.pmiR d i j) s).px.toNat = (s.pmWord s.i[i]).toNat % 256 := by
    rw [effect_pmiR_px, pmLower_toNat]
  have hdata (hwide : narrow d = false) :
      ((effect (.pmiR d i j) s).data d).toNat = (s.pmWord s.i[i]).toNat / 256 := by
    rw [effect_pmiR_data i j s hwide, pmUpper_toNat]
  exact ⟨_, hexec, hdata, hpx, postModify_getElem_i_of_some (s := (s.setData d _).setPx _) hnext,
    effect_sameDraws _ s hspecified, rfl, effect_bitRev s nofun nofun, effect_pmWritten _ s nofun,
    execPmiR_frame hexec⟩

/-- Settles O10: PMI_W stores the register joined with PX at I[i], and then the post-modify. -/
theorem programWriteJoinsRegisterAndPx : Obligations.ProgramWriteJoinsRegisterAndPx := by
  intro d i j n s hpair hmapped hbelow hnext
  have hexec := exec_of_accessAllowed (f := .pmiW d i j) ⟨hpair, hmapped⟩ hbelow
  have hspecified : unspecifiedModify (.pmiW d i j) s = false := congrArg Option.isNone hnext
  have hword := effect_pmiW_pmWord d i j s
  have hvalue : ((effect (.pmiW d i j) s).pmWord s.i[i]).toNat = (s.data d).toNat * 256 + s.px.toNat := by
    rw [hword, pmJoin_toNat]
  have hheld : (effect (.pmiW d i j) s).pm.lookup s.i[i].toNat = some ((effect (.pmiW d i j) s).pmWord s.i[i]) := by
    rw [hword, effect_pmiW_lookup]
  exact ⟨_, hexec, hvalue, hheld, postModify_getElem_i_of_some (s := s.putPm _ _) hnext,
    effect_sameDraws _ s hspecified, rfl, effect_px _ s nofun nofun, effect_bitRev s nofun nofun,
    execPmiW_frame hexec⟩

/-! ### When PX changes (R21, R115) -/

/-- Settles O29: a step is the effect of the fetched instruction on the state the fetch left alone, and `effect_px`
says which effects keep PX. -/
theorem pxChangesOnlyByReadOrName : Obligations.PxChangesOnlyByReadOrName := by
  intro s t hstep hchanged
  obtain ⟨w, f, hfetch, hdecode, hexec⟩ := (step_eq_next s t).mp hstep
  refine ⟨w, f, hfetch, hdecode, ?_⟩
  obtain rfl := exec_next_eq_effect hexec
  by_contra hother
  push Not at hother
  obtain ⟨hdst, hread⟩ := hother
  exact hchanged (effect_px f s hdst hread)

/-! ### A read and then a write (R118) -/

/-- The two parts of a word, joined again, are the word. -/
theorem pmJoin_pmUpper_pmLower (w : Word24) : pmJoin (pmUpper w) (pmLower w) = w :=
  BitVec.extractLsb'_append_extractLsb'

/-- Settles O33: the read leaves the word's parts in the register and PX and does not touch I[i'], so the write puts
their join, the word itself, there. -/
theorem readThenWriteCopiesWholeWord : Obligations.ReadThenWriteCopiesWholeWord := by
  intro d i j i' j' s t u hwide hne hread hwrite
  have hindex : t.i[i'] = s.i[i'] :=
    (execPmiR_frame hread).dagRegs (.i i') fun e => hne (DagReg.i.inj e)
  have hdata : t.data d = pmUpper (s.pmWord s.i[i]) := by
    rw [exec_next_eq_effect hread]
    exact effect_pmiR_data i j s hwide
  have hpx : t.px = pmLower (s.pmWord s.i[i]) := by
    rw [exec_next_eq_effect hread]
    exact effect_pmiR_px d i j s
  have hstored : u.pmWord t.i[i'] = pmJoin (t.data d) t.px := by
    rw [exec_next_eq_effect hwrite]
    exact effect_pmiW_pmWord d i' j' t
  rw [← hindex, hstored, hdata, hpx, pmJoin_pmUpper_pmLower]

end Sys2Proof.Machine
end

section
/-! Proofs of the statements about exceptions (spec/60_exceptions.md): which completed statements draw a free value, and
what the spec's own decision, a fault (D24), does with them. -/

namespace Sys2Proof.Machine

/-! ### A free value drawn shows in the counters (R78, notes/assumptions/12.md) -/

theorem SameDraws.draws_eq {s t : State} (h : SameDraws s t) (g : Dag) : t.draws g = s.draws g := by
  obtain ⟨hdag1, hdag2⟩ := h
  cases g with
  | dag1 => exact hdag1
  | dag2 => exact hdag2

theorem FreeModify.not_sameDraws {i : RegNo} {s t : State} (h : FreeModify i s t) : ¬ SameDraws s t := by
  intro hsame
  obtain ⟨-, hcounted, -⟩ := h
  have hstands := hsame.draws_eq (Dag.of i)
  omega

theorem postModify_not_sameDraws {i j : RegNo} {s : State} (h : (nextAddr s.i[i] s.m[j] s.l[i]).isNone = true) :
    ¬ SameDraws s (postModify i j s) :=
  (postModify_freeModify (Option.isNone_iff_eq_none.mp h)).not_sameDraws

/-- The access before the post-modify touches no counter, so each indirect form comes down to its post-modify; the
other forms make no next address. -/
theorem effect_not_sameDraws (f : Instr) (s : State) (h : unspecifiedModify f s = true) :
    ¬ SameDraws s (effect f s) := by
  cases f with
  | dmiR d i j => exact postModify_not_sameDraws (s := s.setData d _) h
  | dmiW d i j => exact postModify_not_sameDraws (s := s.putDm _ _) h
  | pmiR d i j => exact postModify_not_sameDraws (s := (s.setData d _).setPx _) h
  | pmiW d i j => exact postModify_not_sameDraws (s := s.putPm _ _) h
  | ldi _ _ | dmdR _ _ | dmdW _ _ | mov _ _ | enaBr | disBr => exact absurd h Bool.false_ne_true

/-- Settles O35: the next state is the instruction's effect, which keeps the counters if the result is specified
(`effect_sameDraws`) and moves one if it is not (`effect_not_sameDraws`). -/
theorem drawsMarkUnspecifiedResults : Obligations.DrawsMarkUnspecifiedResults := by
  intro f s t h
  obtain rfl := exec_next_eq_effect h
  constructor
  · intro hsame
    exact Bool.eq_false_iff.mpr fun hunspecified => effect_not_sameDraws f s hunspecified hsame
  · exact effect_sameDraws f s

/-! ### The unspecified result as a fault (R133, D24) -/

/-- Under any treatment, a step past fetch and decoding is the admitted instruction run as the parameters say. -/
theorem stepWith_eq_executedWith {p : Parameters} {s : State} {w : Word24} {f : Instr} (hfetch : fetch s = .next w)
    (hdecode : p.encoding.decode w = .ok f) (hdreg : f.admittedBy p.dreg = true) :
    stepWith p s = executedWith p f s := by
  have hdecoded : decodedWith p w = .next f := (decodedWith_eq_next p w f).mpr ⟨hdecode, hdreg⟩
  rw [stepWith, hfetch, thenDo_next, hdecoded, thenDo_next]

theorem executedWith_of_specified (p : Parameters) {f : Instr} {s : State} (h : unspecifiedModify f s = false) :
    executedWith p f s = exec f s :=
  if_neg fun ⟨_, hunspecified⟩ => Bool.eq_false_iff.mp h hunspecified

theorem executedWith_of_unspecified {p : Parameters} {f : Instr} {s t : State} (hfault : p.unspecified = .fault)
    (hunspecified : unspecifiedModify f s = true) (hexec : exec f s = .next t) :
    executedWith p f s = .fault .unspecifiedModify := by
  rw [executedWith, if_pos ⟨hfault, hunspecified⟩, hexec, thenDo_next]

/-- Settles O41: the step is `executedWith`, one lemma per case of the next address; a step that answers was specified
(`executedWith_eq_next`), so by O35 it drew nothing. -/
theorem unspecifiedResultIsFaultUnderD24 : Obligations.UnspecifiedResultIsFaultUnderD24 := by
  intro p s t w f hfault hfetch hdecode hdreg
  rw [stepWith_eq_executedWith hfetch hdecode hdreg]
  refine ⟨executedWith_of_unspecified hfault, executedWith_of_specified p, ?_⟩
  intro hnext
  obtain ⟨hexec, hspecified⟩ := (executedWith_eq_next p f s t).mp hnext
  exact (drawsMarkUnspecifiedResults f s t hexec).mpr (hspecified hfault)

end Sys2Proof.Machine
end

section
/-! Proofs of the statements about reset and loading (spec/70_reset_and_hazards.md): what every reset starts from, and
where words placed from outside stand and run. -/

namespace Sys2Proof.Machine

/-! ### A loaded program (R151) -/

/-- The place of the `k`-th of `n` words that fit below the top, by number: the addresses do not wrap. -/
theorem toNat_add_ofNat_of_fits {a : Word14} {n k : Nat} (hfits : a.toNat + n ≤ 2 ^ 14) (hk : k < n) :
    (a + BitVec.ofNat 14 k).toNat = a.toNat + k := by
  simp only [BitVec.toNat_add, BitVec.toNat_ofNat]
  omega

/-- Settles O46: it is `State.loadProgram_holdsLoaded`, with the address by number. -/
theorem loadedProgramStandsInOrder : Obligations.LoadedProgramStandsInOrder := by
  intro s e program k f hfits hk
  obtain ⟨hlt, -⟩ := List.getElem?_eq_some_iff.mp hk
  have hloaded := s.loadProgram_holdsLoaded e (by omega) hk
  rw [toNat_add_ofNat_of_fits hfits hlt] at hloaded
  obtain ⟨hunwritten, hheld⟩ := hloaded
  exact ⟨hheld, hunwritten⟩

/-! ### Reset (R150) -/

/-- A record without addresses asks nothing of the memory it records. -/
theorem State.resetWith_inv (r : ResetValues) : (State.resetWith r).inv := by
  obtain ⟨hdm, hpm, hrecord⟩ := State.resetWith_wf r
  exact ⟨hdm, hpm, hrecord, by simp [State.resetWith]⟩

/-- The region from 0 to 0x3FFF holds every address (notes/assumptions/9.md). -/
theorem MemoryMap.whole_mapped (a : Word14) :
    MemoryMap.whole.dmMapped a = true ∧ MemoryMap.whole.pmMapped a = true := by
  have hlt : a.toNat < 2 ^ 14 := a.isLt
  have hholds : Region.holds ⟨0, 0x3FFF⟩ a.toNat = true := by
    simp only [Region.holds, Bool.and_eq_true, decide_eq_true_eq]
    omega
  simp [MemoryMap.whole, MemoryMap.dmMapped, MemoryMap.pmMapped, hholds]

theorem State.reset_dagReg (q : DagReg) : State.reset.dagReg q = 0 := by
  cases q with
  | i k | m k | l k => exact Vector.getElem_replicate k.isLt

theorem State.reset_data (d : DataReg) : State.reset.data d = 0 := by
  cases d <;> rfl

/-- Settles O39: what every reset gives, then the values the model names. -/
theorem everyResetStartsCanonical : Obligations.EveryResetStartsCanonical := by
  refine ⟨fun r => ?_, rfl, State.reset_dagReg, rfl, rfl, rfl, State.reset_data, MemoryMap.whole_mapped⟩
  exact ⟨State.resetWith_inv r, rfl, fun a => ⟨rfl, rfl⟩, rfl⟩

/-! ### A word placed where the next fetch is (R153) -/

@[simp] theorem State.mapPm_pc (s : State) (a : Word14) : (s.mapPm a).pc = s.pc := by
  unfold State.mapPm
  split <;> rfl

theorem State.mapPm_pmMapped_self (s : State) (a : Word14) : (s.mapPm a).map.pmMapped a = true := by
  unfold State.mapPm
  split
  case isTrue hmapped => exact hmapped
  case isFalse => simp [MemoryMap.pmMapped, Region.holds]

/-- The placed word is what is fetched: its address is mapped, and the word is loaded there. -/
theorem fetch_withFetchWord (s : State) (nbits w : Nat) :
    fetch (s.withFetchWord nbits w) = .next (tableWord nbits w) := by
  have hpc : (s.withFetchWord nbits w).pc = s.pc := s.mapPm_pc s.pc
  obtain ⟨hunwritten, hheld⟩ := (s.mapPm s.pc).placePm_holdsLoaded_self s.pc (tableWord nbits w)
  rw [fetch_eq_next, hpc]
  exact ⟨hunwritten, s.mapPm_pmMapped_self s.pc, hheld⟩

/-- The decoder reads a table entry as `decode` reads its word. -/
theorem decodeTableWord_eq_some (nbits w : Nat) (f : Instr) :
    decodeTableWord nbits w = some f ↔ decode (tableWord nbits w) = .ok f := by
  unfold decodeTableWord
  cases decode (tableWord nbits w) with
  | ok g => simp
  | error e => simp

/-- Settles O45: the placed word is fetched (`fetch_withFetchWord`), and the step runs what it decodes to. -/
theorem placedWordRunsNext : Obligations.PlacedWordRunsNext := by
  intro s nbits w f hdecode
  exact stepWith_of_fetch (p := Parameters.named) rfl (fetch_withFetchWord s nbits w)
    ((decodeTableWord_eq_some nbits w f).mp hdecode) (admittedBy_named f)

end Sys2Proof.Machine
end
